-- ==== Sys2Proof/Word.lean ====
section
/-! DEFINITION. The word and byte types of the machine (spec/00_scope.md R5, R6). -/

namespace Sys2Proof

/-- A 16-bit word: the width of every register and of every address (R5 `XLEN`, `ALEN`). -/
abbrev Word := BitVec 16

/-- An 8-bit byte, the smallest addressable unit (R5, R32). -/
abbrev Byte := BitVec 8

end Sys2Proof
end

