-- ==== Sys2Proof/Machine/Bits.lean ====
section
/-! DEFINITION. Byte order, sign extension and single-bit helpers, shared by the decoder and the machine. -/

namespace Sys2Proof

/-- Bits 7 to 0 of a word: the byte at its even address (R33). -/
def lowByte (w : Word) : Byte := w.extractLsb' 0 8

/-- Bits 15 to 8 of a word: the byte at its odd address (R33). -/
def highByte (w : Word) : Byte := w.extractLsb' 8 8

/-- The word whose most significant byte is `hi` and whose least significant byte is `lo` (R33). -/
def joinBytes (hi lo : Byte) : Word := hi ++ lo

/-- `w` with its low byte replaced by `b`: a byte write to a register keeps the high byte (R83). -/
def withLowByte (w : Word) (b : Byte) : Word := joinBytes (highByte w) b

/-- Sign extension of a byte to a word (R7 `sext_16`). -/
def sextByte (b : Byte) : Word := b.signExtend 16

/-- A word address is odd when bit 0 is set (R35). -/
def isOdd (a : Word) : Bool := a.getLsbD 0

/-- The next lower even address: bit 0 ignored (R202 `round_down`). -/
def roundDown (a : Word) : Word := a &&& 0o177776#16

end Sys2Proof
end

