-- ==== Sys2Proof/Syntax.lean ====
section
/-! DEFINITION. The instructions of spec/opcode_table.json, one constructor per row, with typed operand fields. An
instruction is its first word: the operand words that may follow are fetched while the operands are evaluated (R58,
log entry 21). -/

namespace Sys2Proof

/-- The eight general registers (R10); `r6` is the stack pointer, `r7` the program counter (R11). -/
inductive Reg where
  | r0 | r1 | r2 | r3 | r4 | r5 | r6 | r7
  deriving DecidableEq, Repr

/-- The eight addressing modes of R70, in the order of their numbers. -/
inductive Mode where
  /-- Mode 0, Reg. -/
  | register
  /-- Mode 1, Reg Def. -/
  | deferred
  /-- Mode 2, AutoIncr. -/
  | autoInc
  /-- Mode 3, AutoIncrDef. -/
  | autoIncDef
  /-- Mode 4, AutoDecr. -/
  | autoDec
  /-- Mode 5, AutoDecrDef. -/
  | autoDecDef
  /-- Mode 6, Index. -/
  | index
  /-- Mode 7, IndexDef. -/
  | indexDef
  deriving DecidableEq, Repr

/-- A 6-bit operand field: a mode and a register (R57). -/
structure Operand where
  mode : Mode
  reg : Reg
  deriving DecidableEq, Repr

/-- The instructions: one constructor for each row of spec/opcode_table.json (R56). Rows the table marks as another
name of a core row (R68, R193) have a constructor too, which `Instr.core` maps to the core row's; the decoder never
gives one (log entry 20). -/
inductive Instr where
  /-- HALT, words from 0o000000 (R203). -/
  | halt
  /-- WAIT, words from 0o000001 (R204). -/
  | wait
  /-- RTI, words from 0o000002 (R205). -/
  | rti
  /-- unlisted_000003, words from 0o000003 (R221). -/
  | unlisted000003
  /-- BPT, words from 0o000004 (R206). -/
  | bpt
  /-- RESET, words from 0o000005 (R207). -/
  | reset
  /-- unlisted_000006, words from 0o000006 (R222). -/
  | unlisted000006
  /-- (unused), words from 0o000007 (R60). -/
  | unused000007
  /-- (unused), words from 0o000010 (R60). -/
  | unused000010 (x : BitVec 3)
  /-- (unused), words from 0o000020 (R60). -/
  | unused000020 (x : BitVec 4)
  /-- (unused), words from 0o000040 (R60). -/
  | unused000040 (x : BitVec 5)
  /-- JMP, words from 0o000100 (R202). -/
  | jmp (dst : Operand)
  /-- RTS, words from 0o000200 (R201). -/
  | rts (reg : Reg)
  /-- (unused), words from 0o000210 (R60). -/
  | unused000210 (x : BitVec 3)
  /-- (unused), words from 0o000220 (R60). -/
  | unused000220 (x : BitVec 3)
  /-- unlisted_00023x, words from 0o000230 (R223). -/
  | unlisted00023x (n : BitVec 3)
  /-- CLx, words from 0o000240 (R191). -/
  | clx (mask : BitVec 4)
  /-- SEx, words from 0o000260 (R192). -/
  | sex (mask : BitVec 4)
  /-- NOP, words from 0o000240 (R194), another name of CLx. -/
  | nop240
  /-- CLC, words from 0o000241 (R193), another name of CLx. -/
  | clc
  /-- CLV, words from 0o000242 (R193), another name of CLx. -/
  | clv
  /-- CLZ, words from 0o000244 (R193), another name of CLx. -/
  | clz
  /-- CLN, words from 0o000250 (R193), another name of CLx. -/
  | cln
  /-- CCC, words from 0o000257 (R193), another name of CLx. -/
  | ccc
  /-- NOP, words from 0o000260 (R194), another name of SEx. -/
  | nop260
  /-- SEC, words from 0o000261 (R193), another name of SEx. -/
  | sec
  /-- SEV, words from 0o000262 (R193), another name of SEx. -/
  | sev
  /-- SEZ, words from 0o000264 (R193), another name of SEx. -/
  | sez
  /-- SEN, words from 0o000270 (R193), another name of SEx. -/
  | sen
  /-- SCC, words from 0o000277 (R193), another name of SEx. -/
  | scc
  /-- SWAB, words from 0o000300 (R130). -/
  | swab (dst : Operand)
  /-- BR, words from 0o000400 (R172). -/
  | br (off8 : BitVec 8)
  /-- BNE, words from 0o001000 (R173). -/
  | bne (off8 : BitVec 8)
  /-- BEQ, words from 0o001400 (R174). -/
  | beq (off8 : BitVec 8)
  /-- BGE, words from 0o002000 (R175). -/
  | bge (off8 : BitVec 8)
  /-- BLT, words from 0o002400 (R176). -/
  | blt (off8 : BitVec 8)
  /-- BGT, words from 0o003000 (R177). -/
  | bgt (off8 : BitVec 8)
  /-- BLE, words from 0o003400 (R178). -/
  | ble (off8 : BitVec 8)
  /-- JSR, words from 0o004000 (R200). -/
  | jsr (reg : Reg) (dst : Operand)
  /-- CLR, words from 0o005000 (R131). -/
  | clr (dst : Operand)
  /-- COM, words from 0o005100 (R133). -/
  | com (dst : Operand)
  /-- INC, words from 0o005200 (R135). -/
  | inc (dst : Operand)
  /-- DEC, words from 0o005300 (R137). -/
  | dec (dst : Operand)
  /-- NEG, words from 0o005400 (R139). -/
  | neg (dst : Operand)
  /-- ADC, words from 0o005500 (R141). -/
  | adc (dst : Operand)
  /-- SBC, words from 0o005600 (R143). -/
  | sbc (dst : Operand)
  /-- TST, words from 0o005700 (R145). -/
  | tst (dst : Operand)
  /-- ROR, words from 0o006000 (R147). -/
  | ror (dst : Operand)
  /-- ROL, words from 0o006100 (R149). -/
  | rol (dst : Operand)
  /-- ASR, words from 0o006200 (R151). -/
  | asr (dst : Operand)
  /-- ASL, words from 0o006300 (R153). -/
  | asl (dst : Operand)
  /-- MARK, words from 0o006400 (R157). -/
  | mark (nn : BitVec 6)
  /-- (unused), words from 0o006500 (R60). -/
  | unused006500 (x : BitVec 6)
  /-- (unused), words from 0o006600 (R60). -/
  | unused006600 (x : BitVec 6)
  /-- SXT, words from 0o006700 (R159). -/
  | sxt (dst : Operand)
  /-- (unused), words from 0o007000 (R60). -/
  | unused007000 (x : BitVec 9)
  /-- MOV, words from 0o010000 (R91). -/
  | mov (src : Operand) (dst : Operand)
  /-- CMP, words from 0o020000 (R93). -/
  | cmp (src : Operand) (dst : Operand)
  /-- BIT, words from 0o030000 (R95). -/
  | bit (src : Operand) (dst : Operand)
  /-- BIC, words from 0o040000 (R97). -/
  | bic (src : Operand) (dst : Operand)
  /-- BIS, words from 0o050000 (R99). -/
  | bis (src : Operand) (dst : Operand)
  /-- ADD, words from 0o060000 (R101). -/
  | add (src : Operand) (dst : Operand)
  /-- MUL, words from 0o070000 (R114). -/
  | mul (reg : Reg) (src : Operand)
  /-- DIV, words from 0o071000 (R115). -/
  | div (reg : Reg) (src : Operand)
  /-- ASH, words from 0o072000 (R116). -/
  | ash (reg : Reg) (src : Operand)
  /-- ASHC, words from 0o073000 (R117). -/
  | ashc (reg : Reg) (src : Operand)
  /-- XOR, words from 0o074000 (R118). -/
  | xor (reg : Reg) (dst : Operand)
  /-- FADD, words from 0o075000 (R122). -/
  | fadd (reg : Reg)
  /-- FSUB, words from 0o075010 (R122). -/
  | fsub (reg : Reg)
  /-- FMUL, words from 0o075020 (R122). -/
  | fmul (reg : Reg)
  /-- FDIV, words from 0o075030 (R122). -/
  | fdiv (reg : Reg)
  /-- (unused), words from 0o075040 (R60). -/
  | unused075040 (x : BitVec 5)
  /-- (unused), words from 0o075100 (R60). -/
  | unused075100 (x : BitVec 6)
  /-- (unused), words from 0o075200 (R60). -/
  | unused075200 (x : BitVec 7)
  /-- (unused), words from 0o075400 (R60). -/
  | unused075400 (x : BitVec 8)
  /-- (unused), words from 0o076000 (R60). -/
  | unused076000 (x : BitVec 9)
  /-- SOB, words from 0o077000 (R121). -/
  | sob (reg : Reg) (off6 : BitVec 6)
  /-- BPL, words from 0o100000 (R179). -/
  | bpl (off8 : BitVec 8)
  /-- BMI, words from 0o100400 (R180). -/
  | bmi (off8 : BitVec 8)
  /-- BHI, words from 0o101000 (R181). -/
  | bhi (off8 : BitVec 8)
  /-- BLOS, words from 0o101400 (R182). -/
  | blos (off8 : BitVec 8)
  /-- BVC, words from 0o102000 (R183). -/
  | bvc (off8 : BitVec 8)
  /-- BVS, words from 0o102400 (R184). -/
  | bvs (off8 : BitVec 8)
  /-- BCC, words from 0o103000 (R185). -/
  | bcc (off8 : BitVec 8)
  /-- BCS, words from 0o103400 (R186). -/
  | bcs (off8 : BitVec 8)
  /-- BHIS, words from 0o103000 (R185), another name of BCC. -/
  | bhis (off8 : BitVec 8)
  /-- BLO, words from 0o103400 (R186), another name of BCS. -/
  | blo (off8 : BitVec 8)
  /-- unlisted_1040xx-1043xx, words from 0o104000 (R224). -/
  | unlisted1040xx (code : BitVec 8)
  /-- unlisted_1044xx-1047xx, words from 0o104400 (R224). -/
  | unlisted1044xx (code : BitVec 8)
  /-- CLRB, words from 0o105000 (R132). -/
  | clrb (dst : Operand)
  /-- COMB, words from 0o105100 (R134). -/
  | comb (dst : Operand)
  /-- INCB, words from 0o105200 (R136). -/
  | incb (dst : Operand)
  /-- DECB, words from 0o105300 (R138). -/
  | decb (dst : Operand)
  /-- NEGB, words from 0o105400 (R140). -/
  | negb (dst : Operand)
  /-- ADCB, words from 0o105500 (R142). -/
  | adcb (dst : Operand)
  /-- SBCB, words from 0o105600 (R144). -/
  | sbcb (dst : Operand)
  /-- TSTB, words from 0o105700 (R146). -/
  | tstb (dst : Operand)
  /-- RORB, words from 0o106000 (R148). -/
  | rorb (dst : Operand)
  /-- ROLB, words from 0o106100 (R150). -/
  | rolb (dst : Operand)
  /-- ASRB, words from 0o106200 (R152). -/
  | asrb (dst : Operand)
  /-- ASLB, words from 0o106300 (R154). -/
  | aslb (dst : Operand)
  /-- MTPS, words from 0o106400 (R158). -/
  | mtps (src : Operand)
  /-- (unused), words from 0o106500 (R60). -/
  | unused106500 (x : BitVec 6)
  /-- (unused), words from 0o106600 (R60). -/
  | unused106600 (x : BitVec 6)
  /-- MFPS, words from 0o106700 (R160). -/
  | mfps (dst : Operand)
  /-- (unused), words from 0o107000 (R60). -/
  | unused107000 (x : BitVec 9)
  /-- MOVB, words from 0o110000 (R92). -/
  | movb (src : Operand) (dst : Operand)
  /-- CMPB, words from 0o120000 (R94). -/
  | cmpb (src : Operand) (dst : Operand)
  /-- BITB, words from 0o130000 (R96). -/
  | bitb (src : Operand) (dst : Operand)
  /-- BICB, words from 0o140000 (R98). -/
  | bicb (src : Operand) (dst : Operand)
  /-- BISB, words from 0o150000 (R100). -/
  | bisb (src : Operand) (dst : Operand)
  /-- SUB, words from 0o160000 (R102). -/
  | sub (src : Operand) (dst : Operand)
  /-- 1_111_space, words from 0o170000 (R123). -/
  | space1111 (x : BitVec 12)
  deriving DecidableEq, Repr

end Sys2Proof
end

