-- ==== Sys2Proof/WellFormed.lean ====
section
/-! DEFINITION. Well-formed instructions: the ones that are no second name of another row's word (R68, R193). -/

namespace Sys2Proof

/-- The core instruction an instruction is a name of: itself, but for the second names of R68 and R193. -/
def Instr.core (i : Instr) : Instr :=
  match i with
  | .halt => .halt
  | .wait => .wait
  | .rti => .rti
  | .unlisted000003 => .unlisted000003
  | .bpt => .bpt
  | .reset => .reset
  | .unlisted000006 => .unlisted000006
  | .unused000007 => .unused000007
  | .unused000010 x => .unused000010 x
  | .unused000020 x => .unused000020 x
  | .unused000040 x => .unused000040 x
  | .jmp dst => .jmp dst
  | .rts reg => .rts reg
  | .unused000210 x => .unused000210 x
  | .unused000220 x => .unused000220 x
  | .unlisted00023x n => .unlisted00023x n
  | .clx mask => .clx mask
  | .sex mask => .sex mask
  | .nop240 => .clx 0o0#4
  | .clc => .clx 0o1#4
  | .clv => .clx 0o2#4
  | .clz => .clx 0o4#4
  | .cln => .clx 0o10#4
  | .ccc => .clx 0o17#4
  | .nop260 => .sex 0o0#4
  | .sec => .sex 0o1#4
  | .sev => .sex 0o2#4
  | .sez => .sex 0o4#4
  | .sen => .sex 0o10#4
  | .scc => .sex 0o17#4
  | .swab dst => .swab dst
  | .br off8 => .br off8
  | .bne off8 => .bne off8
  | .beq off8 => .beq off8
  | .bge off8 => .bge off8
  | .blt off8 => .blt off8
  | .bgt off8 => .bgt off8
  | .ble off8 => .ble off8
  | .jsr reg dst => .jsr reg dst
  | .clr dst => .clr dst
  | .com dst => .com dst
  | .inc dst => .inc dst
  | .dec dst => .dec dst
  | .neg dst => .neg dst
  | .adc dst => .adc dst
  | .sbc dst => .sbc dst
  | .tst dst => .tst dst
  | .ror dst => .ror dst
  | .rol dst => .rol dst
  | .asr dst => .asr dst
  | .asl dst => .asl dst
  | .mark nn => .mark nn
  | .unused006500 x => .unused006500 x
  | .unused006600 x => .unused006600 x
  | .sxt dst => .sxt dst
  | .unused007000 x => .unused007000 x
  | .mov src dst => .mov src dst
  | .cmp src dst => .cmp src dst
  | .bit src dst => .bit src dst
  | .bic src dst => .bic src dst
  | .bis src dst => .bis src dst
  | .add src dst => .add src dst
  | .mul reg src => .mul reg src
  | .div reg src => .div reg src
  | .ash reg src => .ash reg src
  | .ashc reg src => .ashc reg src
  | .xor reg dst => .xor reg dst
  | .fadd reg => .fadd reg
  | .fsub reg => .fsub reg
  | .fmul reg => .fmul reg
  | .fdiv reg => .fdiv reg
  | .unused075040 x => .unused075040 x
  | .unused075100 x => .unused075100 x
  | .unused075200 x => .unused075200 x
  | .unused075400 x => .unused075400 x
  | .unused076000 x => .unused076000 x
  | .sob reg off6 => .sob reg off6
  | .bpl off8 => .bpl off8
  | .bmi off8 => .bmi off8
  | .bhi off8 => .bhi off8
  | .blos off8 => .blos off8
  | .bvc off8 => .bvc off8
  | .bvs off8 => .bvs off8
  | .bcc off8 => .bcc off8
  | .bcs off8 => .bcs off8
  | .bhis off8 => .bcc off8
  | .blo off8 => .bcs off8
  | .unlisted1040xx code => .unlisted1040xx code
  | .unlisted1044xx code => .unlisted1044xx code
  | .clrb dst => .clrb dst
  | .comb dst => .comb dst
  | .incb dst => .incb dst
  | .decb dst => .decb dst
  | .negb dst => .negb dst
  | .adcb dst => .adcb dst
  | .sbcb dst => .sbcb dst
  | .tstb dst => .tstb dst
  | .rorb dst => .rorb dst
  | .rolb dst => .rolb dst
  | .asrb dst => .asrb dst
  | .aslb dst => .aslb dst
  | .mtps src => .mtps src
  | .unused106500 x => .unused106500 x
  | .unused106600 x => .unused106600 x
  | .mfps dst => .mfps dst
  | .unused107000 x => .unused107000 x
  | .movb src dst => .movb src dst
  | .cmpb src dst => .cmpb src dst
  | .bitb src dst => .bitb src dst
  | .bicb src dst => .bicb src dst
  | .bisb src dst => .bisb src dst
  | .sub src dst => .sub src dst
  | .space1111 x => .space1111 x

/-- An instruction is well-formed when it is its own core instruction: what the decoder can give. -/
def Instr.wellFormed (i : Instr) : Bool := decide (i.core = i)

end Sys2Proof
end

