-- ==== Sys2Proof/Decode.lean ====
section
/-! DEFINITION. The decoder, total on every word and naming what it rejects, the encoder, and the host's view of the
decoder. The decoder follows the order of R64 over the map of R56. -/

namespace Sys2Proof

/-! ## Fields -/

/-- The register a 3-bit field selects by its number (R10). -/
def Reg.ofBits (b : BitVec 3) : Reg :=
  match b.toNat with
  | 0 => .r0
  | 1 => .r1
  | 2 => .r2
  | 3 => .r3
  | 4 => .r4
  | 5 => .r5
  | 6 => .r6
  | _ => .r7

/-- The 3-bit number of a register (R10). -/
def Reg.bits (r : Reg) : BitVec 3 :=
  match r with
  | .r0 => 0#3
  | .r1 => 1#3
  | .r2 => 2#3
  | .r3 => 3#3
  | .r4 => 4#3
  | .r5 => 5#3
  | .r6 => 6#3
  | .r7 => 7#3

/-- The addressing mode of a 3-bit mode field (R70). -/
def Mode.ofBits (b : BitVec 3) : Mode :=
  match b.toNat with
  | 0 => .register
  | 1 => .deferred
  | 2 => .autoInc
  | 3 => .autoIncDef
  | 4 => .autoDec
  | 5 => .autoDecDef
  | 6 => .index
  | _ => .indexDef

/-- The number of a mode (R70). -/
def Mode.bits (m : Mode) : BitVec 3 :=
  match m with
  | .register => 0#3
  | .deferred => 1#3
  | .autoInc => 2#3
  | .autoIncDef => 3#3
  | .autoDec => 4#3
  | .autoDecDef => 5#3
  | .index => 6#3
  | .indexDef => 7#3

/-- A 6-bit operand field: the upper three bits are the mode, the lower three the register (R57). -/
def Operand.ofBits (b : BitVec 6) : Operand :=
  { mode := Mode.ofBits (b.extractLsb' 3 3), reg := Reg.ofBits (b.extractLsb' 0 3) }

/-- The 6 bits of an operand field (R57). -/
def Operand.bits (o : Operand) : BitVec 6 := o.mode.bits ++ o.reg.bits

/-- The destination field, bits 5 to 0 (R51, R52, R55). -/
def dstField (w : Word) : Operand := Operand.ofBits (w.extractLsb' 0 6)

/-- The source field of a double-operand word, bits 11 to 6 (R51). -/
def srcField (w : Word) : Operand := Operand.ofBits (w.extractLsb' 6 6)

/-- The register field of JSR and of the EIS words, bits 8 to 6 (R55). -/
def regField (w : Word) : Reg := Reg.ofBits (w.extractLsb' 6 3)

/-- The register field of RTS, bits 2 to 0 (R55). -/
def lowRegField (w : Word) : Reg := Reg.ofBits (w.extractLsb' 0 3)

/-! ## The decoder -/

/-- R64 line 7, `w[7:6]` = 0: the operate group and the unused words above it (R55, R60, R61). -/
def decodeOperate (w : Word) : Instr :=
  match (w.extractLsb' 3 3).toNat with
  | 0 =>
    match (w.extractLsb' 0 3).toNat with
    | 0 => .halt
    | 1 => .wait
    | 2 => .rti
    | 3 => .unlisted000003
    | 4 => .bpt
    | 5 => .reset
    | 6 => .unlisted000006
    | _ => .unused000007
  | 1 => .unused000010 (w.extractLsb' 0 3)
  | 2 => .unused000020 (w.extractLsb' 0 4)
  | 3 => .unused000020 (w.extractLsb' 0 4)
  | _ => .unused000040 (w.extractLsb' 0 5)

/-- R64 line 7, `w[7:6]` = 2: RTS, the unused and unlisted words above it, and the condition-code operations. -/
def decodeReturnOrCodes (w : Word) : Instr :=
  match (w.extractLsb' 3 3).toNat with
  | 0 => .rts (lowRegField w)
  | 1 => .unused000210 (w.extractLsb' 0 3)
  | 2 => .unused000220 (w.extractLsb' 0 3)
  | 3 => .unlisted00023x (w.extractLsb' 0 3)
  | 4 => .clx (w.extractLsb' 0 4)
  | 5 => .clx (w.extractLsb' 0 4)
  | _ => .sex (w.extractLsb' 0 4)

/-- R64 line 7: the words with `w[15:8]` = 0. -/
def decodeLowPage (w : Word) : Instr :=
  match (w.extractLsb' 6 2).toNat with
  | 0 => decodeOperate w
  | 1 => .jmp (dstField w)
  | 2 => decodeReturnOrCodes w
  | _ => .swab (dstField w)

/-- R64 line 3 with `w[15]` = 0: branch codes 1 to 7; code 0 is the low page (R63). -/
def decodeBranchLow (w : Word) : Instr :=
  match (w.extractLsb' 8 3).toNat with
  | 0 => decodeLowPage w
  | 1 => .br (w.extractLsb' 0 8)
  | 2 => .bne (w.extractLsb' 0 8)
  | 3 => .beq (w.extractLsb' 0 8)
  | 4 => .bge (w.extractLsb' 0 8)
  | 5 => .blt (w.extractLsb' 0 8)
  | 6 => .bgt (w.extractLsb' 0 8)
  | _ => .ble (w.extractLsb' 0 8)

/-- R64 line 3 with `w[15]` = 1: branch codes 0 to 7. -/
def decodeBranchHigh (w : Word) : Instr :=
  match (w.extractLsb' 8 3).toNat with
  | 0 => .bpl (w.extractLsb' 0 8)
  | 1 => .bmi (w.extractLsb' 0 8)
  | 2 => .bhi (w.extractLsb' 0 8)
  | 3 => .blos (w.extractLsb' 0 8)
  | 4 => .bvc (w.extractLsb' 0 8)
  | 5 => .bvs (w.extractLsb' 0 8)
  | 6 => .bcc (w.extractLsb' 0 8)
  | _ => .bcs (w.extractLsb' 0 8)

/-- R64 line 5 with `w[15]` = 0 and `w[11:9]` = 5 or 6: the word single-operand rows; `sop` is `w[9:6]`, so that
`w[11:6]` = 0o50 to 0o57 is `sop` = 8 to 15 and 0o60 to 0o67 is `sop` = 0 to 7. -/
def decodeSingleWord (w : Word) : Instr :=
  match (w.extractLsb' 6 4).toNat with
  | 8 => .clr (dstField w)
  | 9 => .com (dstField w)
  | 10 => .inc (dstField w)
  | 11 => .dec (dstField w)
  | 12 => .neg (dstField w)
  | 13 => .adc (dstField w)
  | 14 => .sbc (dstField w)
  | 15 => .tst (dstField w)
  | 0 => .ror (dstField w)
  | 1 => .rol (dstField w)
  | 2 => .asr (dstField w)
  | 3 => .asl (dstField w)
  | 4 => .mark (w.extractLsb' 0 6)
  | 5 => .unused006500 (w.extractLsb' 0 6)
  | 6 => .unused006600 (w.extractLsb' 0 6)
  | _ => .sxt (dstField w)

/-- R64 line 5 with `w[15]` = 1: the byte single-operand rows, numbered as in `decodeSingleWord`. -/
def decodeSingleByte (w : Word) : Instr :=
  match (w.extractLsb' 6 4).toNat with
  | 8 => .clrb (dstField w)
  | 9 => .comb (dstField w)
  | 10 => .incb (dstField w)
  | 11 => .decb (dstField w)
  | 12 => .negb (dstField w)
  | 13 => .adcb (dstField w)
  | 14 => .sbcb (dstField w)
  | 15 => .tstb (dstField w)
  | 0 => .rorb (dstField w)
  | 1 => .rolb (dstField w)
  | 2 => .asrb (dstField w)
  | 3 => .aslb (dstField w)
  | 4 => .mtps (dstField w)
  | 5 => .unused106500 (w.extractLsb' 0 6)
  | 6 => .unused106600 (w.extractLsb' 0 6)
  | _ => .mfps (dstField w)

/-- R64 lines 3 to 7: the words with `w[14:12]` = 0 and `w[15]` = 0. -/
def decodeNonDoubleWord (w : Word) : Instr :=
  match (w.extractLsb' 9 3).toNat with
  | 4 => .jsr (regField w) (dstField w)
  | 5 => decodeSingleWord w
  | 6 => decodeSingleWord w
  | 7 => .unused007000 (w.extractLsb' 0 9)
  | _ => decodeBranchLow w

/-- R64 lines 3 to 6: the words with `w[14:12]` = 0 and `w[15]` = 1. -/
def decodeNonDoubleByte (w : Word) : Instr :=
  match (w.extractLsb' 9 3).toNat with
  | 4 => if w.getLsbD 8 then .unlisted1044xx (w.extractLsb' 0 8) else .unlisted1040xx (w.extractLsb' 0 8)
  | 5 => decodeSingleByte w
  | 6 => decodeSingleByte w
  | 7 => .unused107000 (w.extractLsb' 0 9)
  | _ => decodeBranchHigh w

/-- The words 0o075000 to 0o075777: the FIS words and the unused words above them (R119, R120). -/
def decodeEisFive (w : Word) : Instr :=
  match (w.extractLsb' 5 4).toNat with
  | 0 =>
    match (w.extractLsb' 3 2).toNat with
    | 0 => .fadd (lowRegField w)
    | 1 => .fsub (lowRegField w)
    | 2 => .fmul (lowRegField w)
    | _ => .fdiv (lowRegField w)
  | 1 => .unused075040 (w.extractLsb' 0 5)
  | 2 => .unused075100 (w.extractLsb' 0 6)
  | 3 => .unused075100 (w.extractLsb' 0 6)
  | 4 => .unused075200 (w.extractLsb' 0 7)
  | 5 => .unused075200 (w.extractLsb' 0 7)
  | 6 => .unused075200 (w.extractLsb' 0 7)
  | 7 => .unused075200 (w.extractLsb' 0 7)
  | _ => .unused075400 (w.extractLsb' 0 8)

/-- R64 line 2 with `w[15]` = 0: the EIS space (R110 to R122). -/
def decodeEis (w : Word) : Instr :=
  match (w.extractLsb' 9 3).toNat with
  | 0 => .mul (regField w) (dstField w)
  | 1 => .div (regField w) (dstField w)
  | 2 => .ash (regField w) (dstField w)
  | 3 => .ashc (regField w) (dstField w)
  | 4 => .xor (regField w) (dstField w)
  | 5 => decodeEisFive w
  | 6 => .unused076000 (w.extractLsb' 0 9)
  | _ => .sob (regField w) (w.extractLsb' 0 6)

/-- The decoder over one instruction word: total, by R56 (every word is some row's), in the order of R64. -/
def decodeWord (w : Word) : Instr :=
  match (w.extractLsb' 12 4).toNat with
  | 0 => decodeNonDoubleWord w
  | 1 => .mov (srcField w) (dstField w)
  | 2 => .cmp (srcField w) (dstField w)
  | 3 => .bit (srcField w) (dstField w)
  | 4 => .bic (srcField w) (dstField w)
  | 5 => .bis (srcField w) (dstField w)
  | 6 => .add (srcField w) (dstField w)
  | 7 => decodeEis w
  | 8 => decodeNonDoubleByte w
  | 9 => .movb (srcField w) (dstField w)
  | 10 => .cmpb (srcField w) (dstField w)
  | 11 => .bitb (srcField w) (dstField w)
  | 12 => .bicb (srcField w) (dstField w)
  | 13 => .bisb (srcField w) (dstField w)
  | 14 => .sub (srcField w) (dstField w)
  | _ => .space1111 (w.extractLsb' 0 12)

/-- Why bytes are no instruction. -/
inductive DecodeError where
  /-- Fewer than the two bytes of an instruction word (R50). Safe: nothing is guessed. -/
  | truncated
  deriving DecidableEq, Repr

/-- The decoder over bytes: the instruction in the first word, least significant byte first (R33), and the bytes
after it, in which its operand words stand (R58). -/
def decode (bytes : List Byte) : Except DecodeError (Instr × List Byte) :=
  match bytes with
  | lo :: hi :: rest => .ok (decodeWord (joinBytes hi lo), rest)
  | _ => .error .truncated

/-! ## The encoder -/

/-- The word of an instruction, from the map of R56. -/
def encodeWord (i : Instr) : Word :=
  match i with
  | .halt => 0o0#16
  | .wait => 0o1#16
  | .rti => 0o2#16
  | .unlisted000003 => 0o3#16
  | .bpt => 0o4#16
  | .reset => 0o5#16
  | .unlisted000006 => 0o6#16
  | .unused000007 => 0o7#16
  | .unused000010 x => 0o1#13 ++ x
  | .unused000020 x => 0o1#12 ++ x
  | .unused000040 x => 0o1#11 ++ x
  | .jmp dst => 0o1#10 ++ dst.bits
  | .rts reg => 0o20#13 ++ reg.bits
  | .unused000210 x => 0o21#13 ++ x
  | .unused000220 x => 0o22#13 ++ x
  | .unlisted00023x n => 0o23#13 ++ n
  | .clx mask => 0o12#12 ++ mask
  | .sex mask => 0o13#12 ++ mask
  | .nop240 => 0o240#16
  | .clc => 0o241#16
  | .clv => 0o242#16
  | .clz => 0o244#16
  | .cln => 0o250#16
  | .ccc => 0o257#16
  | .nop260 => 0o260#16
  | .sec => 0o261#16
  | .sev => 0o262#16
  | .sez => 0o264#16
  | .sen => 0o270#16
  | .scc => 0o277#16
  | .swab dst => 0o3#10 ++ dst.bits
  | .br off8 => 0o1#8 ++ off8
  | .bne off8 => 0o2#8 ++ off8
  | .beq off8 => 0o3#8 ++ off8
  | .bge off8 => 0o4#8 ++ off8
  | .blt off8 => 0o5#8 ++ off8
  | .bgt off8 => 0o6#8 ++ off8
  | .ble off8 => 0o7#8 ++ off8
  | .jsr reg dst => 0o4#7 ++ reg.bits ++ dst.bits
  | .clr dst => 0o50#10 ++ dst.bits
  | .com dst => 0o51#10 ++ dst.bits
  | .inc dst => 0o52#10 ++ dst.bits
  | .dec dst => 0o53#10 ++ dst.bits
  | .neg dst => 0o54#10 ++ dst.bits
  | .adc dst => 0o55#10 ++ dst.bits
  | .sbc dst => 0o56#10 ++ dst.bits
  | .tst dst => 0o57#10 ++ dst.bits
  | .ror dst => 0o60#10 ++ dst.bits
  | .rol dst => 0o61#10 ++ dst.bits
  | .asr dst => 0o62#10 ++ dst.bits
  | .asl dst => 0o63#10 ++ dst.bits
  | .mark nn => 0o64#10 ++ nn
  | .unused006500 x => 0o65#10 ++ x
  | .unused006600 x => 0o66#10 ++ x
  | .sxt dst => 0o67#10 ++ dst.bits
  | .unused007000 x => 0o7#7 ++ x
  | .mov src dst => 0o1#4 ++ src.bits ++ dst.bits
  | .cmp src dst => 0o2#4 ++ src.bits ++ dst.bits
  | .bit src dst => 0o3#4 ++ src.bits ++ dst.bits
  | .bic src dst => 0o4#4 ++ src.bits ++ dst.bits
  | .bis src dst => 0o5#4 ++ src.bits ++ dst.bits
  | .add src dst => 0o6#4 ++ src.bits ++ dst.bits
  | .mul reg src => 0o70#7 ++ reg.bits ++ src.bits
  | .div reg src => 0o71#7 ++ reg.bits ++ src.bits
  | .ash reg src => 0o72#7 ++ reg.bits ++ src.bits
  | .ashc reg src => 0o73#7 ++ reg.bits ++ src.bits
  | .xor reg dst => 0o74#7 ++ reg.bits ++ dst.bits
  | .fadd reg => 0o7500#13 ++ reg.bits
  | .fsub reg => 0o7501#13 ++ reg.bits
  | .fmul reg => 0o7502#13 ++ reg.bits
  | .fdiv reg => 0o7503#13 ++ reg.bits
  | .unused075040 x => 0o1721#11 ++ x
  | .unused075100 x => 0o751#10 ++ x
  | .unused075200 x => 0o365#9 ++ x
  | .unused075400 x => 0o173#8 ++ x
  | .unused076000 x => 0o76#7 ++ x
  | .sob reg off6 => 0o77#7 ++ reg.bits ++ off6
  | .bpl off8 => 0o200#8 ++ off8
  | .bmi off8 => 0o201#8 ++ off8
  | .bhi off8 => 0o202#8 ++ off8
  | .blos off8 => 0o203#8 ++ off8
  | .bvc off8 => 0o204#8 ++ off8
  | .bvs off8 => 0o205#8 ++ off8
  | .bcc off8 => 0o206#8 ++ off8
  | .bcs off8 => 0o207#8 ++ off8
  | .bhis off8 => 0o206#8 ++ off8
  | .blo off8 => 0o207#8 ++ off8
  | .unlisted1040xx code => 0o210#8 ++ code
  | .unlisted1044xx code => 0o211#8 ++ code
  | .clrb dst => 0o1050#10 ++ dst.bits
  | .comb dst => 0o1051#10 ++ dst.bits
  | .incb dst => 0o1052#10 ++ dst.bits
  | .decb dst => 0o1053#10 ++ dst.bits
  | .negb dst => 0o1054#10 ++ dst.bits
  | .adcb dst => 0o1055#10 ++ dst.bits
  | .sbcb dst => 0o1056#10 ++ dst.bits
  | .tstb dst => 0o1057#10 ++ dst.bits
  | .rorb dst => 0o1060#10 ++ dst.bits
  | .rolb dst => 0o1061#10 ++ dst.bits
  | .asrb dst => 0o1062#10 ++ dst.bits
  | .aslb dst => 0o1063#10 ++ dst.bits
  | .mtps src => 0o1064#10 ++ src.bits
  | .unused106500 x => 0o1065#10 ++ x
  | .unused106600 x => 0o1066#10 ++ x
  | .mfps dst => 0o1067#10 ++ dst.bits
  | .unused107000 x => 0o107#7 ++ x
  | .movb src dst => 0o11#4 ++ src.bits ++ dst.bits
  | .cmpb src dst => 0o12#4 ++ src.bits ++ dst.bits
  | .bitb src dst => 0o13#4 ++ src.bits ++ dst.bits
  | .bicb src dst => 0o14#4 ++ src.bits ++ dst.bits
  | .bisb src dst => 0o15#4 ++ src.bits ++ dst.bits
  | .sub src dst => 0o16#4 ++ src.bits ++ dst.bits
  | .space1111 x => 0o17#4 ++ x

/-- The words of an instruction: its one instruction word (R50); operand words are data of the program (R58). -/
def encode (i : Instr) : List Word := [encodeWord i]

/-- The bytes of a list of words as memory holds them, each word least significant byte first (R33). -/
def wordBytes (ws : List Word) : List Byte := ws.flatMap fun w => [lowByte w, highByte w]

/-! ## How many words an instruction takes -/

/-- The following words an operand field consumes (R58). -/
def Operand.extraWords (o : Operand) : Nat :=
  match o.mode with
  | .index => 1
  | .indexDef => 1
  | .autoInc => if o.reg = .r7 then 1 else 0
  | .autoIncDef => if o.reg = .r7 then 1 else 0
  | _ => 0

/-! ## The host's view -/

/-- The three words an instruction can take (R50), from a number whose bit 0 is the least significant bit of the
first word and whose bits from `nbits` up are zero. -/
def tableWords (nbits w : Nat) : List Word :=
  let v := w % 2 ^ nbits
  [BitVec.ofNat 16 v, BitVec.ofNat 16 (v / 65536), BitVec.ofNat 16 (v / 4294967296)]

/-- The instruction the decoder reads from a row's word, numbered as spec/opcode_table.json numbers its bits. -/
def decodeTableWord (nbits w : Nat) : Option Instr :=
  match decode (wordBytes (tableWords nbits w)) with
  | .ok (i, _) => some i
  | .error _ => none

end Sys2Proof
end

