-- ==== Sys2Proof/Config.lean ====
section
/-! DEFINITION. The implementation parameters the spec leaves to the machine's builder (R5), as plain data, and the
free values: constants without a body, about which nothing can be proved but that they are values. -/

namespace Sys2Proof

/-- What JMP and JSR do with an odd target (R5 `ODD_JUMP`, R202; that neither value is a fault is log entry 35). -/
inductive OddJump where
  /-- Raise the odd address trap; the PC is not loaded. -/
  | trap
  /-- Ignore the right-most bit of the target. -/
  | roundDown
  deriving DecidableEq, Repr

/-- What `OP Rn,(Rn)+` and its like use as the source value (R5 `SAME_REG_POLICY`, R85). -/
inductive SameRegPolicy where
  /-- The model gives the form no meaning. -/
  | refuse
  /-- The value before the destination's step (R84 as written). -/
  | initial
  /-- The value after the destination has been resolved. -/
  | modified
  deriving DecidableEq, Repr

/-- Which of the two words is BPT (R5 `BPT_WORD`, R206, R221). -/
inductive BptWord where
  /-- 0o000004 is BPT, as the source prints it. -/
  | word4
  /-- 0o000003 is BPT, the family's reading; 0o000004 is then IOT or reserved. -/
  | word3
  deriving DecidableEq, Repr

/-- The vector address of every exception of R233 (R5 `VECTORS`). A device interrupt brings its own. -/
structure Vectors where
  oddAddress : Word
  busTimeout : Word
  illegalJump : Word
  reservedInstruction : Word
  breakpoint : Word
  trace : Word
  iot : Word
  powerFail : Word
  emt : Word
  trap : Word
  deriving DecidableEq, Repr

/-- The default vector table of R233. -/
def Vectors.standard : Vectors where
  oddAddress := 0o4#16
  busTimeout := 0o4#16
  illegalJump := 0o4#16
  reservedInstruction := 0o10#16
  breakpoint := 0o14#16
  trace := 0o14#16
  iot := 0o20#16
  powerFail := 0o24#16
  emt := 0o30#16
  trap := 0o34#16

/-- The parameters of R5: arguments the model takes, the same for a whole run. -/
structure Params where
  /-- `RAM_TOP`: first byte address above installed memory (R40). -/
  ramTop : Nat
  /-- `DEVICES`: the even addresses of the I/O page at which a device register answers (R31, R39). -/
  devices : List Nat
  /-- `EIS_PRESENT` (R112). -/
  eisPresent : Bool
  /-- `SUPPLEMENT_PRESENT` (R220). -/
  supplementPresent : Bool
  /-- `BPT_WORD` (R206, R221). -/
  bptWord : BptWord
  /-- `ODD_JUMP` (R202). -/
  oddJump : OddJump
  /-- `PS_MASK`: the PS bits that hold state (R16). -/
  psMask : Word
  /-- `VECTORS` (R233). -/
  vectors : Vectors
  /-- `RESET_PC` (R24). -/
  resetPc : Word
  /-- `RESET_PS` (R24). -/
  resetPs : Word
  /-- `SAME_REG_POLICY` (R85). -/
  sameReg : SameRegPolicy
  deriving DecidableEq, Repr

/-- The values the model gives the parameters at reset: the spec's default where it names one, but for
`EIS_PRESENT` (log entry 3) and `SAME_REG_POLICY` (log entry 4), whose defaults refuse instructions another value
runs; the rest DESIGN CHOICE (log entries 6 and 8). -/
def Params.chosen : Params where
  ramTop := 0o160000
  devices := []
  eisPresent := true
  supplementPresent := false
  bptWord := .word4
  oddJump := .trap
  psMask := 0o170377#16
  vectors := Vectors.standard
  resetPc := 0o1000#16
  resetPs := 0#16
  sameReg := .initial

/-- A free word (log entry 10): the n-th draw, for a result or a device register the spec leaves open (R115, R39). -/
opaque Config.freeWord : Nat → Word

/-- A free byte (log entry 10): a byte read of a device register (R39). -/
opaque Config.freeByte : Nat → Byte

/-- A free bit (log entry 10): a flag the spec leaves unspecified (R115). -/
opaque Config.freeBit : Nat → Bool

/-- A free choice among interrupt requests of one level (R245 "tie: the oracle chooses", log entry 11). -/
opaque Config.freeChoice : Nat → Nat

end Sys2Proof
end

