-- ==== Sys2Proof/Machine/State.lean ====
section
/-! DEFINITION. The machine's state as plain data, its state after reset, and the reasons a step can stop. -/

namespace Sys2Proof.Machine

/-- The register file: one set of eight 16-bit registers (R10, R12); `r6` is SP and `r7` is the PC (R11). -/
structure Regs where
  r0 : Word
  r1 : Word
  r2 : Word
  r3 : Word
  r4 : Word
  r5 : Word
  r6 : Word
  r7 : Word
  deriving DecidableEq, Repr

/-- Whether the processor runs, waits for an interrupt or has halted (R23 `run`). -/
inductive RunState where
  | running
  | waiting
  | halted
  deriving DecidableEq, Repr

/-- A device's interrupt request: the vector it supplies and its level (R23 `pending`, R244). -/
structure Request where
  vector : Word
  level : Fin 8
  deriving DecidableEq, Repr

/-- A byte a device stores by direct memory access (R44). -/
structure DeviceStore where
  address : Word
  value : Byte
  deriving DecidableEq, Repr

/-- Memory: the bytes written so far, addresses strictly rising (R30; log entry 7). -/
abbrev Memory := List Host.Cell

/-- The whole state of the machine: what the spec gives it (R10, R15, R23, R30), the inputs from outside that wait for
the next instruction boundary (R242), and the model's own bookkeeping (log entries 2, 10, 16, 33). -/
structure State where
  /-- R0 to R7 (R10). -/
  regs : Regs
  /-- The processor status word (R15, R16). -/
  ps : Word
  /-- `run` (R23). -/
  run : RunState
  /-- `pending` (R23). -/
  pending : List Request
  /-- The stores by direct memory access that devices will make (R44): the first group before the processor's next
  memory access, the second before the one after it, and so on. The model's own form of that part of the oracle
  `DEVICES` (log entry 33). -/
  transfers : List (List DeviceStore)
  /-- `trace_armed` (R23). -/
  traceArmed : Bool
  /-- A power-fail event waiting for the next boundary (R233, R242, R252). -/
  powerFail : Bool
  /-- A HALT request from the console waiting for the next boundary (R242). -/
  haltRequest : Bool
  /-- The model's fault marker of a double fault (R241). -/
  doubleFault : Bool
  /-- Memory (R30). -/
  mem : Memory
  /-- How many free values have been drawn: the model's own (log entry 10). -/
  draws : Nat
  /-- The parameters of R5: the model's own place for them, never changed by a step (log entry 2). -/
  params : Params
  deriving DecidableEq, Repr

/-- Why the machine makes no further step. -/
inductive Fault where
  /-- Raised by every read of a memory byte that nothing has written (R24, R262: reading memory before writing it is
  a fault of the model). Safe: no value is assumed. -/
  | unwrittenMemory (address : Word)
  /-- Raised by a step of a halted machine: HALT ends the run until the operator acts (R203). Safe: nothing is claimed
  of the console. -/
  | halted
  /-- Raised by a step of a waiting machine that no event wakes: it is stuck (R204). Safe. -/
  | waitsForever
  deriving DecidableEq, Repr

/-- Why the model gives a situation no meaning. -/
inductive Refusal where
  /-- Answered by `exec` for an instruction with no meaning yet. Safe. -/
  | notModelled (mnemonic : String)
  /-- Raised by an EIS instruction when `EIS_PRESENT` is false (R112). Safe. -/
  | eisAbsent (mnemonic : String)
  /-- Raised by the words of the Floating Instruction Set, which the spec refuses (R122). Safe. -/
  | floatingInstructionSet (mnemonic : String)
  /-- Raised by the words 0o170000 to 0o177777, which the spec refuses (R123). Safe. -/
  | undefinedEisSpace
  /-- Raised by JSR and RTS with R6 as the linkage register, which the spec refuses (R200, R201). Safe. -/
  | linkageRegisterSp (mnemonic : String)
  /-- Raised by DIV and ASHC with an odd register, which the spec refuses (R115, R117). Safe. -/
  | oddRegisterPair (mnemonic : String)
  /-- Raised under `SAME_REG_POLICY` = `refuse` by the forms of R85. Safe. -/
  | sameRegister
  /-- Raised by trap entry when the words pushed overlap the vector, which the spec refuses (R236). Safe. -/
  | stackOverlapsVector
  deriving DecidableEq, Repr

/-- The registers after reset: R0 to R5 zero, SP at 0o1000 (log entries 5 and 6), the PC at `RESET_PC` (R24). -/
def Regs.reset (p : Params) : Regs where
  r0 := 0#16
  r1 := 0#16
  r2 := 0#16
  r3 := 0#16
  r4 := 0#16
  r5 := 0#16
  r6 := 0o1000#16
  r7 := p.resetPc

/-- The state after reset under given parameters (R24, R261): the PC and PS from `RESET_PC` and `RESET_PS`, running,
nothing pending, no device transfer under way, no byte of memory written. -/
def State.resetWith (p : Params) : State where
  regs := Regs.reset p
  ps := p.resetPs &&& p.psMask
  run := .running
  pending := []
  transfers := []
  traceArmed := false
  powerFail := false
  haltRequest := false
  doubleFault := false
  mem := []
  draws := 0
  params := p

/-- The machine right after reset, under the parameters the model chooses (log entries 3, 4, 5, 6, 8). -/
def State.reset : State := State.resetWith Params.chosen

end Sys2Proof.Machine
end

