-- ==== Sys2Proof/Machine/Ops.lean ====
section
/-! DEFINITION. The named operations over registers, the processor status and memory; taking an exception and returning
from one. -/

namespace Sys2Proof.Machine

/-- The outcome of a step or of an instruction. -/
abbrev Out := Host.Outcome State Fault Refusal

/-! ## Registers -/

/-- The value of a register. -/
def Regs.get (g : Regs) (r : Reg) : Word :=
  match r with
  | .r0 => g.r0
  | .r1 => g.r1
  | .r2 => g.r2
  | .r3 => g.r3
  | .r4 => g.r4
  | .r5 => g.r5
  | .r6 => g.r6
  | .r7 => g.r7

/-- The register file with one register replaced. -/
def Regs.set (g : Regs) (r : Reg) (v : Word) : Regs :=
  match r with
  | .r0 => { g with r0 := v }
  | .r1 => { g with r1 := v }
  | .r2 => { g with r2 := v }
  | .r3 => { g with r3 := v }
  | .r4 => { g with r4 := v }
  | .r5 => { g with r5 := v }
  | .r6 => { g with r6 := v }
  | .r7 => { g with r7 := v }

/-- R7 `x[i]`. -/
def State.reg (s : State) (r : Reg) : Word := s.regs.get r

/-- R7 `x[i] <- v`: every register is written like any other, the PC included (R11). -/
def State.setReg (s : State) (r : Reg) (v : Word) : State := { s with regs := s.regs.set r v }

/-- The program counter: the same storage as R7 (R11). -/
def State.pc (s : State) : Word := s.reg .r7

/-- The stack pointer: the same storage as R6 (R11). -/
def State.sp (s : State) : Word := s.reg .r6

/-- The odd register of a pair: the register number with its lowest bit set (R113 `Rv1`). -/
def oddPartner (r : Reg) : Reg :=
  match r with
  | .r0 => .r1
  | .r1 => .r1
  | .r2 => .r3
  | .r3 => .r3
  | .r4 => .r5
  | .r5 => .r5
  | .r6 => .r7
  | .r7 => .r7

/-! ## The processor status word -/

/-- The condition codes (R15). -/
structure Flags where
  n : Bool
  z : Bool
  v : Bool
  c : Bool
  deriving DecidableEq, Repr

/-- The condition codes as the low four bits N, Z, V, C of a word (R16). -/
def Flags.bits (f : Flags) : Word :=
  (if f.n then 0o10#16 else 0#16) ||| (if f.z then 0o4#16 else 0#16) |||
    (if f.v then 0o2#16 else 0#16) ||| (if f.c then 0o1#16 else 0#16)

/-- `PS.N`, bit 3 (R16). -/
def State.flagN (s : State) : Bool := s.ps.getLsbD 3

/-- `PS.Z`, bit 2 (R16). -/
def State.flagZ (s : State) : Bool := s.ps.getLsbD 2

/-- `PS.V`, bit 1 (R16). -/
def State.flagV (s : State) : Bool := s.ps.getLsbD 1

/-- `PS.C`, bit 0 (R16). -/
def State.flagC (s : State) : Bool := s.ps.getLsbD 0

/-- `PS.T`, bit 4 (R16). -/
def State.flagT (s : State) : Bool := s.ps.getLsbD 4

/-- `PS.PRI`, bits 7 to 5 (R16). -/
def State.priority (s : State) : Nat := (s.ps.extractLsb' 5 3).toNat

/-- The four condition codes together. -/
def State.flags (s : State) : Flags := { n := s.flagN, z := s.flagZ, v := s.flagV, c := s.flagC }

/-- Every write of the PS: a bit outside `PS_MASK` ignores it (R16). -/
def State.writePs (s : State) (v : Word) : State := { s with ps := v &&& s.params.psMask }

/-- A write of the condition codes; the rest of the PS keeps its value. -/
def State.setFlags (s : State) (f : Flags) : State := s.writePs ((s.ps &&& 0o177760#16) ||| f.bits)

/-! ## Memory -/

/-- What an address that nothing has written reads as: no value (R24, log entry 7). -/
def unlistedByte (_ : Nat) : Option Byte := none

/-- One byte of memory. -/
def Memory.read : Memory → Nat → Option Byte
  | [], a => unlistedByte a
  | (k, b) :: m, a => if k = a then some b else Memory.read m a

/-- Memory with one byte written; the addresses stay strictly rising. -/
def Memory.write : Memory → Nat → Byte → Memory
  | [], a, b => [(a, b)]
  | (k, c) :: m, a, b =>
    if a < k then (a, b) :: (k, c) :: m
    else if a = k then (a, b) :: m
    else (k, c) :: Memory.write m a b

/-- The addresses rise strictly from `lo` up, stay below 2^16 (R30), and no entry says what an unlisted address reads
as. -/
def Memory.risesFrom : Nat → Memory → Bool
  | _, [] => true
  | lo, (k, b) :: m =>
    decide (lo ≤ k) && decide (k < 65536) && decide (unlistedByte k ≠ some b) && Memory.risesFrom (k + 1) m

/-- The canonical form of memory. -/
def Memory.wf (m : Memory) : Bool := Memory.risesFrom 0 m

/-- What answers at an address (R40, R41). -/
inductive Region where
  | ram
  | device
  | absent
  deriving DecidableEq, Repr

/-- A byte address lies in the I/O page, the top 4K words (R31). -/
def inIoPage (a : Word) : Bool := decide (0o160000 ≤ a.toNat)

/-- What answers an access of `n` bytes at `a`: memory below `RAM_TOP` (R40), a device register of the I/O page
(R31, log entry 9), or nothing (R41). -/
def region (p : Params) (a : Word) (n : Nat) : Region :=
  if a.toNat + n ≤ p.ramTop then .ram
  else if inIoPage a && p.devices.contains (roundDown a).toNat then .device
  else .absent

/-! ## Steps that can raise an exception -/

/-- The synchronous exceptions of R233. `Trace`, `PowerFail` and `Interrupt` are taken at the boundary between
instructions (R242) and are not raised by one. -/
inductive Exn where
  | oddAddress (a : Word)
  | busTimeout (a : Word)
  | illegalJump
  | reservedInstruction
  | breakpoint
  | iot
  | emt
  | trap
  deriving DecidableEq, Repr

/-- The result of a part of an instruction: a value and the state, an exception with the state it leaves (the side
effects made so far are kept, R238), or a stop. -/
inductive Res (α : Type) where
  | ok (a : α) (s : State)
  | exn (e : Exn) (s : State)
  | fault (f : Fault)
  | refused (r : Refusal)

/-- One part of an instruction after another: an exception or a stop of the first ends it (R242). -/
def Res.bind {α β : Type} (x : Res α) (k : α → State → Res β) : Res β :=
  match x with
  | .ok a s => k a s
  | .exn e s => .exn e s
  | .fault f => .fault f
  | .refused r => .refused r

/-- One byte of RAM, a fault where nothing has been written (log entry 7). -/
def ramByte (a : Word) (s : State) : Res Byte :=
  match s.mem.read a.toNat with
  | some b => .ok b s
  | none => .fault (.unwrittenMemory a)

/-! ### Direct memory access -/

/-- The state with one byte of memory written. -/
def State.storeByte (s : State) (a : Word) (b : Byte) : State := { s with mem := s.mem.write a.toNat b }

/-- A device stores a byte; where no memory answers, nothing takes it (R40, R44). -/
def State.deviceStore (s : State) (d : DeviceStore) : State :=
  if d.address.toNat < s.params.ramTop then s.storeByte d.address d.value else s

/-- Devices store bytes, one after another. -/
def State.deviceStoreAll : State → List DeviceStore → State
  | s, [] => s
  | s, d :: ds => (s.deviceStore d).deviceStoreAll ds

/-- What devices do between the processor's last memory access and its next one (R44): the first group of `transfers`
is stored. With none waiting, nothing. -/
def State.busTurn (s : State) : State :=
  match s.transfers with
  | [] => s
  | g :: gs => { s.deviceStoreAll g with transfers := gs }

/-! ### The processor's accesses

Each is one access of R44, indivisible at its width (R38): devices act before it, and it is complete before they act
again. -/

/-- A byte access put on the bus. A device register answers with a free value (R39, log entry 9). -/
def readByteNow (a : Word) (s : State) : Res Byte :=
  match region s.params a 1 with
  | .ram => ramByte a s
  | .device => .ok (Config.freeByte s.draws) { s with draws := s.draws + 1 }
  | .absent => .exn (.busTimeout a) s

/-- R7 `MemRead(a, 1)`. -/
def readByte (a : Word) (s : State) : Res Byte := readByteNow a s.busTurn

/-- A word access put on the bus: the byte at `a` is the least significant one (R33). -/
def readWordNow (a : Word) (s : State) : Res Word :=
  match region s.params a 2 with
  | .ram => (ramByte a s).bind fun lo s1 => (ramByte (a + 1#16) s1).bind fun hi s2 => .ok (joinBytes hi lo) s2
  | .device => .ok (Config.freeWord s.draws) { s with draws := s.draws + 1 }
  | .absent => .exn (.busTimeout a) s

/-- R7 `MemRead(a, 2)`: at an odd address the access is not made (R35). -/
def readWord (a : Word) (s : State) : Res Word :=
  if isOdd a then .exn (.oddAddress a) s else readWordNow a s.busTurn

/-- The state with the word at the even address `a` written, least significant byte first (R33). -/
def State.storeWord (s : State) (a : Word) (w : Word) : State :=
  (s.storeByte a (lowByte w)).storeByte (a + 1#16) (highByte w)

/-- A byte write put on the bus. What a device does with a write is its own (R39, log entry 9). -/
def writeByteNow (a : Word) (b : Byte) (s : State) : Res Unit :=
  match region s.params a 1 with
  | .ram => .ok () (s.storeByte a b)
  | .device => .ok () s
  | .absent => .exn (.busTimeout a) s

/-- R7 `MemWrite(a, 1, b)`. -/
def writeByte (a : Word) (b : Byte) (s : State) : Res Unit := writeByteNow a b s.busTurn

/-- A word write put on the bus (R33). -/
def writeWordNow (a : Word) (w : Word) (s : State) : Res Unit :=
  match region s.params a 2 with
  | .ram => .ok () (s.storeWord a w)
  | .device => .ok () s
  | .absent => .exn (.busTimeout a) s

/-- R7 `MemWrite(a, 2, w)`: same byte order and alignment rule as the read (R33, R35). -/
def writeWord (a : Word) (w : Word) (s : State) : Res Unit :=
  if isOdd a then .exn (.oddAddress a) s else writeWordNow a w s.busTurn

/-- R7 `Fetch()`: the word at the PC, the PC then 2 further (R13). -/
def fetch (s : State) : Res Word :=
  (readWord s.pc s).bind fun w s1 => .ok w (s1.setReg .r7 (s1.pc + 2#16))

/-- R7 `Push(v)`: the stack grows toward lower addresses (R11). -/
def push (v : Word) (s : State) : Res Unit :=
  let s1 := s.setReg .r6 (s.sp - 2#16)
  writeWord s1.sp v s1

/-- R7 `Pop()`. -/
def pop (s : State) : Res Word :=
  (readWord s.sp s).bind fun v s1 => .ok v (s1.setReg .r6 (s1.sp + 2#16))

/-! ## Taking an exception and returning from one -/

/-- The state of a double fault: halted, with the model's fault marker set (R241). -/
def State.afterDoubleFault (s : State) : State := { s with run := .halted, doubleFault := true }

/-- The two words a trap entry pushes below `sp` overlap its vector (R236 "a model refuses that layout"). -/
def stackOverlapsVector (v sp : Word) : Bool :=
  sp - 2#16 == v || sp - 2#16 == v + 2#16 || sp - 4#16 == v || sp - 4#16 == v + 2#16

/-- The memory accesses of R236: the vector's two words are read, then the old PS and the old PC are pushed; the new
PC and PS are then loaded and the processor runs. -/
def enterVector (v : Word) (s : State) : Res Unit :=
  (readWord v s).bind fun newPc s1 =>
  (readWord (v + 2#16) s1).bind fun newPs s2 =>
  if stackOverlapsVector v s2.sp then .refused .stackOverlapsVector
  else
    (push s.ps s2).bind fun _ s3 =>
    (push s.pc s3).bind fun _ s4 =>
    .ok () { (s4.setReg .r7 newPc).writePs newPs with run := .running }

/-- R236 `TrapEntry(v)`, the same for every exception and interrupt; an exception inside it is a double fault (R241). -/
def trapEntry (v : Word) (s : State) : Out :=
  match enterVector v s with
  | .ok _ t => .next t
  | .exn _ t => .next t.afterDoubleFault
  | .fault f => .fault f
  | .refused r => .refused r

/-- The vector of an exception (R233). -/
def vectorOf (e : Exn) (p : Params) : Word :=
  match e with
  | .oddAddress _ => p.vectors.oddAddress
  | .busTimeout _ => p.vectors.busTimeout
  | .illegalJump => p.vectors.illegalJump
  | .reservedInstruction => p.vectors.reservedInstruction
  | .breakpoint => p.vectors.breakpoint
  | .iot => p.vectors.iot
  | .emt => p.vectors.emt
  | .trap => p.vectors.trap

/-- R7 `raise E`: the instruction stops and its trap is taken; a traced instruction that raises an exception of its
own is not trace-trapped as well (R243). -/
def raise (e : Exn) (s : State) : Out := trapEntry (vectorOf e s.params) { s with traceArmed := false }

/-- The end of an instruction: its state, or the trap of the exception it raised. -/
def finish {α : Type} (x : Res α) : Out :=
  match x with
  | .ok _ s => .next s
  | .exn e s => raise e s
  | .fault f => .fault f
  | .refused r => .refused r

/-- R240, R205: the PC is popped, then the PS, every field of it under `PS_MASK`. -/
def trapReturn (s : State) : Res Unit :=
  (pop s).bind fun newPc s1 =>
  (pop (s1.setReg .r7 newPc)).bind fun newPs s2 =>
  .ok () (s2.writePs newPs)

end Sys2Proof.Machine
end

