-- ==== Sys2Proof/Machine/Cycle.lean ====
section
/-! DEFINITION. What stands around an instruction: its fetch, and the boundary after it with the trace trap, the events
from outside and the interrupts (R242 to R245). -/

namespace Sys2Proof.Machine

/-- The start of an instruction: `trace_armed` is copied from `PS.T` (R243), the instruction word is fetched and the
PC moves past it (R13), and the word is decoded. -/
def fetchInstr (s : State) : Res Instr :=
  (fetch { s with traceArmed := s.flagT }).bind fun w s1 => .ok (decodeWord w) s1

/-- One event after another; a stop ends the sequence. -/
def onNext (x : Out) (k : State → Out) : Out :=
  match x with
  | .next s => k s
  | .fault f => .fault f
  | .refused r => .refused r

/-- A halted machine takes no event: nothing is accepted until the operator acts (R203, R245). -/
def unlessHalted (k : State → Out) (s : State) : Out :=
  match s.run with
  | .halted => .next s
  | .running => k s
  | .waiting => k s

/-- R243: the trace trap of an instruction that began with T = 1 and raised no exception of its own. -/
def traceCheck (s : State) : Out :=
  if s.traceArmed then trapEntry s.params.vectors.trace { s with traceArmed := false } else .next s

/-- R242 (3): a power-fail event is taken through its vector (R233). -/
def powerFailCheck (s : State) : Out :=
  if s.powerFail then trapEntry s.params.vectors.powerFail { s with powerFail := false } else .next s

/-- R242 (4): a HALT request from the console halts the machine. -/
def haltCheck (s : State) : Out :=
  if s.haltRequest then .next { s with run := .halted, haltRequest := false } else .next s

/-- R245 `cand`: the pending requests above the processor's priority. -/
def candidates (s : State) : List Request := s.pending.filter fun r => decide (s.priority < r.level.val)

/-- The greatest level among requests. -/
def topLevel (rs : List Request) : Nat := rs.foldl (fun m r => max m r.level.val) 0

/-- The candidates with the greatest level (R245). -/
def bestCandidates (s : State) : List Request :=
  (candidates s).filter fun r => decide (r.level.val = topLevel (candidates s))

/-- R245: the request accepted and how many free values its choice drew; a tie is the oracle's, a free choice
(log entry 11). -/
def chooseRequest (s : State) : Option (Request × Nat) :=
  match bestCandidates s with
  | [] => none
  | [r] => some (r, 0)
  | r :: q :: rs => some (((r :: q :: rs)[Config.freeChoice s.draws % (rs.length + 2)]?).getD r, 1)

/-- `pending` without a request (R245). -/
def withoutRequest (r : Request) (rs : List Request) : List Request := rs.filter fun q => decide (q ≠ r)

/-- R245: a request is removed from `pending` and its vector entered. -/
def acceptRequest (r : Request) (drawn : Nat) (s : State) : Out :=
  trapEntry r.vector { s with pending := withoutRequest r s.pending, draws := s.draws + drawn }

/-- R245, R242: interrupts are looked at until none is acceptable; after one is taken the others are looked at again
before the handler's first instruction. Each acceptance removes a request, so `fuel` = the number pending is enough. -/
def acceptInterrupts (fuel : Nat) (s : State) : Out :=
  match fuel with
  | 0 => .next s
  | k + 1 =>
    unlessHalted (fun s =>
      match chooseRequest s with
      | none => .next s
      | some (r, drawn) => onNext (acceptRequest r drawn s) (acceptInterrupts k)) s

/-- The boundary between instructions: the events in the order of R242. -/
def boundary (s : State) : Out :=
  onNext (unlessHalted traceCheck s) fun s1 =>
  onNext (unlessHalted powerFailCheck s1) fun s2 =>
  onNext (unlessHalted haltCheck s2) fun s3 =>
  acceptInterrupts s3.pending.length s3

/-- An instruction's outcome with the boundary after it. -/
def settle (x : Out) : Out := onNext x boundary

/-- A step of a waiting machine: only an event at the boundary ends the wait (R204); with none it is stuck. -/
def waitingStep (s : State) : Out :=
  onNext (boundary s) fun t =>
  match t.run with
  | .waiting => .fault .waitsForever
  | .running => .next t
  | .halted => .next t

/-- A step of a halted machine: there is none (R203). -/
def haltedStep (_ : State) : Out := .fault .halted

/-- The state with bytes written at an address and after it. -/
def State.storeBytes (s : State) (a : Word) : List Byte → State
  | [] => s
  | b :: bs => (s.storeByte a b).storeBytes (a + 1#16) bs

/-- The state with a program's first words placed where the next instruction is fetched: at the PC, the processor
running (log entry 22). -/
def State.withProgramAtPc (s : State) (bytes : List Byte) : State :=
  { s.storeBytes s.pc bytes with run := .running }

end Sys2Proof.Machine
end

