-- ==== Sys2Proof/Machine/Flags.lean ====
section
/-! DEFINITION. The flag computations of every instruction, and the results they go with, at any operand width: the
same definition serves the word and the byte form (R90, R103). -/

namespace Sys2Proof.Machine

/-- N and Z from a result, V cleared, C as given: MOV, BIT, BIC, BIS, XOR, TST, COM (R91, R95, R118, R133, R145). -/
def resultFlags {w : Nat} (r : BitVec w) (c : Bool) : Flags :=
  { n := r.msb, z := r == 0#w, v := false, c := c }

/-- The flags of `s + d` (R101). -/
def addFlags {w : Nat} (s d : BitVec w) : Flags :=
  let r := s + d
  { n := r.msb, z := r == 0#w, v := s.msb == d.msb && r.msb != s.msb, c := decide (2 ^ w ≤ s.toNat + d.toNat) }

/-- The flags of CMP, from `s - d` (R93). -/
def cmpFlags {w : Nat} (s d : BitVec w) : Flags :=
  let r := s - d
  { n := r.msb, z := r == 0#w, v := s.msb != d.msb && r.msb == d.msb, c := decide (s.toNat < d.toNat) }

/-- The flags of SUB, from `d - s` (R102). -/
def subFlags {w : Nat} (s d : BitVec w) : Flags :=
  let r := d - s
  { n := r.msb, z := r == 0#w, v := s.msb != d.msb && r.msb == s.msb, c := decide (d.toNat < s.toNat) }

/-- The most positive signed value, 0o077777 or 0o177. -/
def maxSigned (w : Nat) : BitVec w := BitVec.intMax w

/-- The most negative signed value, 0o100000 or 0o200. -/
def minSigned (w : Nat) : BitVec w := BitVec.intMin w

/-! ## The functions of the read-modify-write instructions

Each takes the operand and the condition codes before the instruction and gives the result and the new codes (R155). -/

/-- COM, COMB (R133, R134). -/
def comOp {w : Nat} (d : BitVec w) (_ : Flags) : BitVec w × Flags :=
  (~~~d, resultFlags (~~~d) true)

/-- INC, INCB (R135, R136): C unchanged. -/
def incOp {w : Nat} (d : BitVec w) (f : Flags) : BitVec w × Flags :=
  let r := d + 1#w
  (r, { n := r.msb, z := r == 0#w, v := d == maxSigned w, c := f.c })

/-- DEC, DECB (R137, R138): C unchanged. -/
def decOp {w : Nat} (d : BitVec w) (f : Flags) : BitVec w × Flags :=
  let r := d - 1#w
  (r, { n := r.msb, z := r == 0#w, v := d == minSigned w, c := f.c })

/-- NEG, NEGB (R139, R140). -/
def negOp {w : Nat} (d : BitVec w) (_ : Flags) : BitVec w × Flags :=
  let r := 0#w - d
  (r, { n := r.msb, z := r == 0#w, v := r == minSigned w, c := r != 0#w })

/-- ADC, ADCB (R141, R142). -/
def adcOp {w : Nat} (d : BitVec w) (f : Flags) : BitVec w × Flags :=
  let r := if f.c then d + 1#w else d
  (r, { n := r.msb, z := r == 0#w, v := d == maxSigned w && f.c, c := d == BitVec.allOnes w && f.c })

/-- SBC, SBCB (R143, R144). -/
def sbcOp {w : Nat} (d : BitVec w) (f : Flags) : BitVec w × Flags :=
  let r := if f.c then d - 1#w else d
  (r, { n := r.msb, z := r == 0#w, v := d == minSigned w && f.c, c := d == 0#w && f.c })

/-- N and Z from a shifted result, the bit moved out in C, and V their exclusive or (R147 to R154). -/
def shiftFlags {w : Nat} (r : BitVec w) (out : Bool) : Flags :=
  { n := r.msb, z := r == 0#w, v := r.msb != out, c := out }

/-- A bit entering at the left-most place of an operand shifted right by one. -/
def shiftRightIn {w : Nat} (b : Bool) (d : BitVec w) : BitVec w :=
  (d >>> 1) ||| (if b then minSigned w else 0#w)

/-- A bit entering at bit 0 of an operand shifted left by one. -/
def shiftLeftIn {w : Nat} (b : Bool) (d : BitVec w) : BitVec w :=
  (d <<< 1) ||| (if b then 1#w else 0#w)

/-- ROR, RORB: a rotate right through C (R147, R148). -/
def rorOp {w : Nat} (d : BitVec w) (f : Flags) : BitVec w × Flags :=
  (shiftRightIn f.c d, shiftFlags (shiftRightIn f.c d) (d.getLsbD 0))

/-- ROL, ROLB: a rotate left through C (R149, R150). -/
def rolOp {w : Nat} (d : BitVec w) (f : Flags) : BitVec w × Flags :=
  (shiftLeftIn f.c d, shiftFlags (shiftLeftIn f.c d) d.msb)

/-- ASR, ASRB: the left-most bit is duplicated (R151, R152). -/
def asrOp {w : Nat} (d : BitVec w) (_ : Flags) : BitVec w × Flags :=
  (shiftRightIn d.msb d, shiftFlags (shiftRightIn d.msb d) (d.getLsbD 0))

/-- ASL, ASLB: zero enters at the right (R153, R154). -/
def aslOp {w : Nat} (d : BitVec w) (_ : Flags) : BitVec w × Flags :=
  (shiftLeftIn false d, shiftFlags (shiftLeftIn false d) d.msb)

/-- SWAB: the bytes exchanged; N and Z from the low byte of the result, V and C cleared (R130). -/
def swabOp (d : Word) (_ : Flags) : Word × Flags :=
  (joinBytes (lowByte d) (highByte d),
    { n := (highByte d).msb, z := highByte d == 0#8, v := false, c := false })

/-! ## The functions of the double-operand instructions: source, destination, codes before -/

/-- ADD (R101). -/
def addOp {w : Nat} (s d : BitVec w) (_ : Flags) : BitVec w × Flags := (s + d, addFlags s d)

/-- SUB: destination minus source (R102). -/
def subOp {w : Nat} (s d : BitVec w) (_ : Flags) : BitVec w × Flags := (d - s, subFlags s d)

/-- BIC, BICB (R97, R98): C unchanged. -/
def bicOp {w : Nat} (s d : BitVec w) (f : Flags) : BitVec w × Flags := (~~~s &&& d, resultFlags (~~~s &&& d) f.c)

/-- BIS, BISB (R99, R100): C unchanged. -/
def bisOp {w : Nat} (s d : BitVec w) (f : Flags) : BitVec w × Flags := (s ||| d, resultFlags (s ||| d) f.c)

/-- XOR (R118): C unchanged. -/
def xorOp {w : Nat} (s d : BitVec w) (f : Flags) : BitVec w × Flags := (s ^^^ d, resultFlags (s ^^^ d) f.c)

/-- The flags of BIT, BITB (R95, R96): C unchanged. -/
def bitFlags {w : Nat} (s d : BitVec w) (f : Flags) : Flags := resultFlags (s &&& d) f.c

/-! ## The shifts of the EIS, at the width of one register or of a pair -/

/-- The sign bit changed at any step of a left shift by `k` places (R116). -/
def signChanges {w : Nat} (v : BitVec w) (k : Nat) : Bool :=
  (List.range k).any fun j => (v <<< (j + 1)).msb != (v <<< j).msb

/-- ASH and ASHC by a count above 0 (R116, R117). -/
def shiftLeftBy {w : Nat} (v : BitVec w) (k : Nat) : BitVec w × Flags :=
  let r := v <<< k
  (r, { n := r.msb, z := r == 0#w, v := signChanges v k, c := decide (k ≤ w) && v.getLsbD (w - k) })

/-- ASH and ASHC by a count below 0: the sign bit is duplicated (R116, R117). -/
def shiftRightBy {w : Nat} (v : BitVec w) (k : Nat) : BitVec w × Flags :=
  let r := v.sshiftRight k
  (r, { n := r.msb, z := r == 0#w, v := false, c := if k ≤ w then v.getLsbD (k - 1) else v.msb })

/-- ASH and ASHC by a signed 6-bit count, -32 to 31 (R116, R117). -/
def arithShift {w : Nat} (v : BitVec w) (count : BitVec 6) : BitVec w × Flags :=
  if count = 0#6 then (v, resultFlags v false)
  else if count.msb then shiftRightBy v (64 - count.toNat)
  else shiftLeftBy v count.toNat

end Sys2Proof.Machine
end

