-- ==== Sys2Proof/Machine/Operands.lean ====
section
/-! DEFINITION. The operand forms: resolving a field to a location (R72), reading and writing a location (R82, R83), and
the orders in which instructions do so (R84, R85, R155). -/

namespace Sys2Proof.Machine

/-- The width of an operand: `n` = 2 or `n` = 1 (R90). -/
inductive Size where
  | word
  | byte
  deriving DecidableEq, Repr

/-- What an operand field names: a register or a memory address (R70). -/
inductive Loc where
  | reg (r : Reg)
  | mem (a : Word)
  deriving DecidableEq, Repr

/-- R71: the step of modes 2 and 4; 1 only for a byte operand through R0 to R5. -/
def step12 (r : Reg) (n : Size) : Word :=
  match n with
  | .word => 2#16
  | .byte => if r = .r6 ∨ r = .r7 then 2#16 else 1#16

/-- R72 `Resolve(mode, r, n)`: the location, with the side effects of the mode. -/
def resolve (n : Size) (o : Operand) (s : State) : Res Loc :=
  match o.mode with
  | .register => .ok (.reg o.reg) s
  | .deferred => .ok (.mem (s.reg o.reg)) s
  | .autoInc => .ok (.mem (s.reg o.reg)) (s.setReg o.reg (s.reg o.reg + step12 o.reg n))
  | .autoIncDef =>
    (readWord (s.reg o.reg) s).bind fun a s1 => .ok (.mem a) (s1.setReg o.reg (s1.reg o.reg + 2#16))
  | .autoDec =>
    let s1 := s.setReg o.reg (s.reg o.reg - step12 o.reg n)
    .ok (.mem (s1.reg o.reg)) s1
  | .autoDecDef =>
    let s1 := s.setReg o.reg (s.reg o.reg - 2#16)
    (readWord (s1.reg o.reg) s1).bind fun a s2 => .ok (.mem a) s2
  | .index => (fetch s).bind fun x s1 => .ok (.mem (s1.reg o.reg + x)) s1
  | .indexDef =>
    (fetch s).bind fun x s1 => (readWord (s1.reg o.reg + x) s1).bind fun a s2 => .ok (.mem a) s2

/-- R82 for a word. -/
def readLocWord (l : Loc) (s : State) : Res Word :=
  match l with
  | .reg r => .ok (s.reg r) s
  | .mem a => readWord a s

/-- R82 for a byte: the low byte of a register. -/
def readLocByte (l : Loc) (s : State) : Res Byte :=
  match l with
  | .reg r => .ok (lowByte (s.reg r)) s
  | .mem a => readByte a s

/-- R83 for a word. -/
def writeLocWord (l : Loc) (v : Word) (s : State) : Res Unit :=
  match l with
  | .reg r => .ok () (s.setReg r v)
  | .mem a => writeWord a v s

/-- R83 for a byte: a register keeps its high byte. -/
def writeLocByte (l : Loc) (v : Byte) (s : State) : Res Unit :=
  match l with
  | .reg r => .ok () (s.setReg r (withLowByte (s.reg r) v))
  | .mem a => writeByte a v s

/-- The byte write of MOVB and MFPS: a register takes the sign-extended byte (R92, R160). -/
def writeLocSext (l : Loc) (v : Byte) (s : State) : Res Unit :=
  match l with
  | .reg r => .ok () (s.setReg r (sextByte v))
  | .mem a => writeByte a v s

/-! ## One operand -/

/-- A word operand that is read only (R82). -/
def readOperandWord (o : Operand) (s : State) : Res Word :=
  (resolve .word o s).bind fun l s1 => readLocWord l s1

/-- A byte operand that is read only (R82). -/
def readOperandByte (o : Operand) (s : State) : Res Byte :=
  (resolve .byte o s).bind fun l s1 => readLocByte l s1

/-- R155 for a word: resolved once, read, the result written over the data, then the flags. -/
def modifyWord (f : Word → Flags → Word × Flags) (o : Operand) (s : State) : Res Unit :=
  (resolve .word o s).bind fun l s1 =>
  (readLocWord l s1).bind fun d s2 =>
  (writeLocWord l (f d s2.flags).1 s2).bind fun _ s3 =>
  .ok () (s3.setFlags (f d s2.flags).2)

/-- R155 for a byte. -/
def modifyByte (f : Byte → Flags → Byte × Flags) (o : Operand) (s : State) : Res Unit :=
  (resolve .byte o s).bind fun l s1 =>
  (readLocByte l s1).bind fun d s2 =>
  (writeLocByte l (f d s2.flags).1 s2).bind fun _ s3 =>
  .ok () (s3.setFlags (f d s2.flags).2)

/-- A word destination that is written and not read (R38), then the flags. -/
def storeOperandWord (v : Word) (f : Flags) (o : Operand) (s : State) : Res Unit :=
  (resolve .word o s).bind fun l s1 =>
  (writeLocWord l v s1).bind fun _ s2 => .ok () (s2.setFlags f)

/-- A byte destination that is written and not read (R38), then the flags. -/
def storeOperandByte (v : Byte) (f : Flags) (o : Operand) (s : State) : Res Unit :=
  (resolve .byte o s).bind fun l s1 =>
  (writeLocByte l v s1).bind fun _ s2 => .ok () (s2.setFlags f)

/-! ## Two operands -/

/-- The forms of R85: a register in mode 0 as the source, and the same register, R0 to R6, stepped by the
destination field. -/
def sameRegisterForm (src dst : Operand) : Bool :=
  decide (src.mode = .register ∧ src.reg = dst.reg ∧ src.reg ≠ .r7) &&
    decide (dst.mode = .autoInc ∨ dst.mode = .autoIncDef ∨ dst.mode = .autoDec ∨ dst.mode = .autoDecDef)

/-- The two orders of R84 and R85 over a given read of the source. -/
def sourceThenLoc {α : Type} (n : Size) (readSource : State → Res α) (src dst : Operand) (s : State) :
    Res (α × Loc) :=
  let initial : Res (α × Loc) :=
    (readSource s).bind fun v s1 => (resolve n dst s1).bind fun l s2 => .ok (v, l) s2
  let modified : Res (α × Loc) :=
    (resolve n dst s).bind fun l s1 => (readSource s1).bind fun v s2 => .ok (v, l) s2
  if sameRegisterForm src dst then
    match s.params.sameReg with
    | .refuse => .refused .sameRegister
    | .initial => initial
    | .modified => modified
  else initial

/-- R84 for words: the source operand's value and the destination's location. -/
def sourceDestWord (src dst : Operand) (s : State) : Res (Word × Loc) :=
  sourceThenLoc .word (readOperandWord src) src dst s

/-- R84 for bytes. -/
def sourceDestByte (src dst : Operand) (s : State) : Res (Byte × Loc) :=
  sourceThenLoc .byte (readOperandByte src) src dst s

/-- A double-operand instruction that writes its destination, on words (R97, R101). -/
def combineWord (f : Word → Word → Flags → Word × Flags) (src dst : Operand) (s : State) : Res Unit :=
  (sourceDestWord src dst s).bind fun p s1 =>
  (readLocWord p.2 s1).bind fun d s2 =>
  (writeLocWord p.2 (f p.1 d s2.flags).1 s2).bind fun _ s3 =>
  .ok () (s3.setFlags (f p.1 d s2.flags).2)

/-- A double-operand instruction that writes its destination, on bytes (R98). -/
def combineByte (f : Byte → Byte → Flags → Byte × Flags) (src dst : Operand) (s : State) : Res Unit :=
  (sourceDestByte src dst s).bind fun p s1 =>
  (readLocByte p.2 s1).bind fun d s2 =>
  (writeLocByte p.2 (f p.1 d s2.flags).1 s2).bind fun _ s3 =>
  .ok () (s3.setFlags (f p.1 d s2.flags).2)

/-- A double-operand instruction that only sets flags, on words (R93, R95). -/
def compareWord (f : Word → Word → Flags → Flags) (src dst : Operand) (s : State) : Res Unit :=
  (sourceDestWord src dst s).bind fun p s1 =>
  (readLocWord p.2 s1).bind fun d s2 => .ok () (s2.setFlags (f p.1 d s2.flags))

/-- A double-operand instruction that only sets flags, on bytes (R94, R96). -/
def compareByte (f : Byte → Byte → Flags → Flags) (src dst : Operand) (s : State) : Res Unit :=
  (sourceDestByte src dst s).bind fun p s1 =>
  (readLocByte p.2 s1).bind fun d s2 => .ok () (s2.setFlags (f p.1 d s2.flags))

/-! ## Jump targets -/

/-- The destination as an address (R86): mode 0 is an illegal jump, found before any operand is evaluated (R208, R234). -/
def jumpAddress (o : Operand) (s : State) : Res Word :=
  if o.mode = .register then .exn .illegalJump s
  else
    (resolve .word o s).bind fun l s1 =>
    match l with
    | .mem a => .ok a s1
    | .reg _ => .exn .illegalJump s1

/-- R202 `OddTarget`: the treatment of an odd target by `ODD_JUMP`. DESIGN CHOICE, unsafe (log entry 35): both values have
the effect R202 describes, where R202, D6 and U1 recommend that a model fault under both. -/
def evenTarget (a : Word) (s : State) : Res Word :=
  if isOdd a then
    match s.params.oddJump with
    | .trap => .exn (.oddAddress a) s
    | .roundDown => .ok (roundDown a) s
  else .ok a s

end Sys2Proof.Machine
end

