-- ==== Sys2Proof/Machine/Branches.lean ====
section
/-! DEFINITION. The branches BR to BCS and their second names (spec/44_branches.md). -/

namespace Sys2Proof.Machine

/-- R171: the offset is in words, signed, from the word after the branch. -/
def branchTarget (pc : Word) (off8 : BitVec 8) : Word := pc + 2#16 * off8.signExtend 16

/-- R171: the PC is written when the test succeeds and nothing else changes (R170). -/
def branchIf (cond : Bool) (off8 : BitVec 8) (s : State) : Out :=
  .next (if cond then s.setReg .r7 (branchTarget s.pc off8) else s)

/-- BR: always (R172). -/
def execBr (off8 : BitVec 8) (s : State) : Out :=
  branchIf true off8 s

/-- BNE: Z = 0 (R173). -/
def execBne (off8 : BitVec 8) (s : State) : Out :=
  branchIf (!s.flagZ) off8 s

/-- BEQ: Z = 1 (R174). -/
def execBeq (off8 : BitVec 8) (s : State) : Out :=
  branchIf s.flagZ off8 s

/-- BGE: N xor V = 0 (R175). -/
def execBge (off8 : BitVec 8) (s : State) : Out :=
  branchIf (!(s.flagN ^^ s.flagV)) off8 s

/-- BLT: N xor V = 1 (R176). -/
def execBlt (off8 : BitVec 8) (s : State) : Out :=
  branchIf (s.flagN ^^ s.flagV) off8 s

/-- BGT: Z or (N xor V) = 0 (R177). -/
def execBgt (off8 : BitVec 8) (s : State) : Out :=
  branchIf (!(s.flagZ || (s.flagN ^^ s.flagV))) off8 s

/-- BLE: Z or (N xor V) = 1 (R178). -/
def execBle (off8 : BitVec 8) (s : State) : Out :=
  branchIf (s.flagZ || (s.flagN ^^ s.flagV)) off8 s

/-- BPL: N = 0 (R179). -/
def execBpl (off8 : BitVec 8) (s : State) : Out :=
  branchIf (!s.flagN) off8 s

/-- BMI: N = 1 (R180). -/
def execBmi (off8 : BitVec 8) (s : State) : Out :=
  branchIf s.flagN off8 s

/-- BHI: C = 0 and Z = 0 (R181). -/
def execBhi (off8 : BitVec 8) (s : State) : Out :=
  branchIf (!s.flagC && !s.flagZ) off8 s

/-- BLOS: C or Z = 1 (R182). -/
def execBlos (off8 : BitVec 8) (s : State) : Out :=
  branchIf (s.flagC || s.flagZ) off8 s

/-- BVC: V = 0 (R183). -/
def execBvc (off8 : BitVec 8) (s : State) : Out :=
  branchIf (!s.flagV) off8 s

/-- BVS: V = 1 (R184). -/
def execBvs (off8 : BitVec 8) (s : State) : Out :=
  branchIf s.flagV off8 s

/-- BCC: C = 0 (R185). -/
def execBcc (off8 : BitVec 8) (s : State) : Out :=
  branchIf (!s.flagC) off8 s

/-- BCS: C = 1 (R186). -/
def execBcs (off8 : BitVec 8) (s : State) : Out :=
  branchIf s.flagC off8 s

/-- BHIS: another name of BCC (R185). -/
def execBhis (off8 : BitVec 8) (s : State) : Out :=
  branchIf (!s.flagC) off8 s

/-- BLO: another name of BCS (R186). -/
def execBlo (off8 : BitVec 8) (s : State) : Out :=
  branchIf s.flagC off8 s

end Sys2Proof.Machine
end

