-- ==== Sys2Proof/Machine/ConditionCodes.lean ====
section
/-! DEFINITION. The condition-code operations and their named words (spec/45_condition_codes.md). -/

namespace Sys2Proof.Machine

/-- R191: the flags of the mask (N, Z, V, C from bit 3 down) cleared, the others kept. -/
def clearFlags (mask : BitVec 4) (s : State) : State :=
  s.setFlags
    { n := s.flagN && !mask.getLsbD 3, z := s.flagZ && !mask.getLsbD 2, v := s.flagV && !mask.getLsbD 1,
      c := s.flagC && !mask.getLsbD 0 }

/-- R192: the flags of the mask set, the others kept. -/
def raiseFlags (mask : BitVec 4) (s : State) : State :=
  s.setFlags
    { n := s.flagN || mask.getLsbD 3, z := s.flagZ || mask.getLsbD 2, v := s.flagV || mask.getLsbD 1,
      c := s.flagC || mask.getLsbD 0 }

/-- CLx: the flags of the mask cleared (R191). -/
def execClx (mask : BitVec 4) (s : State) : Out :=
  .next (clearFlags mask s)

/-- SEx: the flags of the mask set (R192). -/
def execSex (mask : BitVec 4) (s : State) : Out :=
  .next (raiseFlags mask s)

/-- NOP, the word 0o000240: nothing cleared (R194). -/
def execNop240 (s : State) : Out :=
  .next (clearFlags 0o0#4 s)

/-- CLC (R193). -/
def execClc (s : State) : Out :=
  .next (clearFlags 0o1#4 s)

/-- CLV (R193). -/
def execClv (s : State) : Out :=
  .next (clearFlags 0o2#4 s)

/-- CLZ (R193). -/
def execClz (s : State) : Out :=
  .next (clearFlags 0o4#4 s)

/-- CLN (R193). -/
def execCln (s : State) : Out :=
  .next (clearFlags 0o10#4 s)

/-- CCC (R193). -/
def execCcc (s : State) : Out :=
  .next (clearFlags 0o17#4 s)

/-- NOP, the word 0o000260: nothing set (R194). -/
def execNop260 (s : State) : Out :=
  .next (raiseFlags 0o0#4 s)

/-- SEC (R193). -/
def execSec (s : State) : Out :=
  .next (raiseFlags 0o1#4 s)

/-- SEV (R193). -/
def execSev (s : State) : Out :=
  .next (raiseFlags 0o2#4 s)

/-- SEZ (R193). -/
def execSez (s : State) : Out :=
  .next (raiseFlags 0o4#4 s)

/-- SEN (R193). -/
def execSen (s : State) : Out :=
  .next (raiseFlags 0o10#4 s)

/-- SCC (R193). -/
def execScc (s : State) : Out :=
  .next (raiseFlags 0o17#4 s)

end Sys2Proof.Machine
end

