-- ==== Sys2Proof/Machine/Control.lean ====
section
/-! DEFINITION. JSR, RTS, JMP and the operate group HALT to RESET (spec/46_misc_control.md). -/

namespace Sys2Proof.Machine

/-- JSR: the destination address first, then the linkage register is pushed and takes the PC (R200, R208). -/
def execJsr (reg : Reg) (dst : Operand) (s : State) : Out :=
  finish <|
    if dst.mode = .register then Res.exn .illegalJump s
    else if reg = .r6 then .refused (.linkageRegisterSp "JSR")
    else
      (jumpAddress dst s).bind fun a s1 =>
      (evenTarget a s1).bind fun target s2 =>
      (push (s2.reg reg) s2).bind fun _ s3 =>
      .ok () ((s3.setReg reg s3.pc).setReg .r7 target)

/-- RTS: the PC from the linkage register, which is then popped (R201). -/
def execRts (reg : Reg) (s : State) : Out :=
  finish <|
    if reg = .r6 then Res.refused (.linkageRegisterSp "RTS")
    else (pop (s.setReg .r7 (s.reg reg))).bind fun v s1 => .ok () (s1.setReg reg v)

/-- JMP: the destination address goes to the PC; the location is not read (R202, R208). -/
def execJmp (dst : Operand) (s : State) : Out :=
  finish <|
    (jumpAddress dst s).bind fun a s1 =>
    (evenTarget a s1).bind fun target s2 => .ok () (s2.setReg .r7 target)

/-- HALT (R203). -/
def execHalt (s : State) : Out := .next { s with run := .halted }

/-- WAIT (R204). -/
def execWait (s : State) : Out := .next { s with run := .waiting }

/-- A trap return that traps at once when the PS it popped, or the one before it, has T = 1 (R205, R243). -/
def execRti (s : State) : Out :=
  finish <| (trapReturn s).bind fun _ t => .ok () { t with traceArmed := t.traceArmed || t.flagT }

/-- BPT, the word 0o000004, by `BPT_WORD`; under the family's reading the word is IOT or reserved (R206, R221). -/
def execBpt (s : State) : Out :=
  match s.params.bptWord with
  | .word4 => raise .breakpoint s
  | .word3 => if s.params.supplementPresent then raise .iot s else raise .reservedInstruction s

/-- RESET: the devices are initialised and their requests withdrawn; nothing of the processor changes (R207). -/
def execReset (s : State) : Out := .next { s with pending := [] }

end Sys2Proof.Machine
end

