-- ==== Sys2Proof/Machine/DoubleOperand.lean ====
section
/-! DEFINITION. The double-operand instructions MOV to SUB (spec/41_double_operand.md). -/

namespace Sys2Proof.Machine

/-- MOV: the destination is written and not read; C unchanged (R91). -/
def execMov (src : Operand) (dst : Operand) (s : State) : Out :=
  finish <|
    (sourceDestWord src dst s).bind fun p s1 =>
    (writeLocWord p.2 p.1 s1).bind fun _ s2 => .ok () (s2.setFlags (resultFlags p.1 s2.flagC))

/-- MOVB: as MOV on bytes, but a register destination takes the sign-extended byte (R92). -/
def execMovb (src : Operand) (dst : Operand) (s : State) : Out :=
  finish <|
    (sourceDestByte src dst s).bind fun p s1 =>
    (writeLocSext p.2 p.1 s1).bind fun _ s2 => .ok () (s2.setFlags (resultFlags p.1 s2.flagC))

/-- CMP: the flags of source minus destination; nothing is written (R93). -/
def execCmp (src : Operand) (dst : Operand) (s : State) : Out :=
  finish (compareWord (fun v d _ => cmpFlags v d) src dst s)

/-- CMPB: as CMP on bytes (R94). -/
def execCmpb (src : Operand) (dst : Operand) (s : State) : Out :=
  finish (compareByte (fun v d _ => cmpFlags v d) src dst s)

/-- BIT: the flags of the bit-wise and; nothing is written (R95). -/
def execBit (src : Operand) (dst : Operand) (s : State) : Out :=
  finish (compareWord bitFlags src dst s)

/-- BITB: as BIT on bytes (R96). -/
def execBitb (src : Operand) (dst : Operand) (s : State) : Out :=
  finish (compareByte bitFlags src dst s)

/-- BIC: the bits set in the source are cleared in the destination (R97). -/
def execBic (src : Operand) (dst : Operand) (s : State) : Out :=
  finish (combineWord bicOp src dst s)

/-- BICB: as BIC on bytes (R98). -/
def execBicb (src : Operand) (dst : Operand) (s : State) : Out :=
  finish (combineByte bicOp src dst s)

/-- BIS: the bits set in the source are set in the destination (R99). -/
def execBis (src : Operand) (dst : Operand) (s : State) : Out :=
  finish (combineWord bisOp src dst s)

/-- BISB: as BIS on bytes (R100). -/
def execBisb (src : Operand) (dst : Operand) (s : State) : Out :=
  finish (combineByte bisOp src dst s)

/-- ADD: the sum goes to the destination (R101). -/
def execAdd (src : Operand) (dst : Operand) (s : State) : Out :=
  finish (combineWord addOp src dst s)

/-- SUB: destination minus source goes to the destination; a word instruction although bit 15 is 1 (R102). -/
def execSub (src : Operand) (dst : Operand) (s : State) : Out :=
  finish (combineWord subOp src dst s)

end Sys2Proof.Machine
end

