-- ==== Sys2Proof/Machine/Eis.lean ====
section
/-! DEFINITION. The Extended Instruction Set space (spec/42_eis.md). -/

namespace Sys2Proof.Machine

/-- R112: with `EIS_PRESENT` false the words have no meaning. -/
def requireEis {α : Type} (mnemonic : String) (s : State) (x : Res α) : Res α :=
  if s.params.eisPresent then x else .refused (.eisAbsent mnemonic)

/-- The two words of a register pair written, high word first (R114, R117). -/
def State.setPair (s : State) (r : Reg) (v : BitVec 32) : State :=
  (s.setReg r (v.extractLsb' 16 16)).setReg (oddPartner r) (v.extractLsb' 0 16)

/-- The 32-bit value of a register pair, R the high word (R115, R117). -/
def State.pair (s : State) (r : Reg) : BitVec 32 := s.reg r ++ s.reg (oddPartner r)

/-- R is even: the first register of a pair (R115, R117). -/
def isEvenReg (r : Reg) : Bool := decide (oddPartner r ≠ r)

/-- The flags of MUL, from the exact signed product (R114). -/
def mulFlags (p : Int) : Flags :=
  { n := decide (p < 0), z := decide (p = 0), v := false, c := decide (p < -32768 ∨ 32768 ≤ p) }

/-- MUL: the signed product of R and the operand to the pair; with an odd R only the low word survives (R114). -/
def execMul (reg : Reg) (src : Operand) (s : State) : Out :=
  finish <| requireEis "MUL" s <|
    (readOperandWord src s).bind fun v s1 =>
    let p := (s1.reg reg).toInt * v.toInt
    .ok () ((s1.setPair reg (BitVec.ofInt 32 p)).setFlags (mulFlags p))

/-- The state after a DIV whose result is unspecified: V and C are given, N, Z and both registers are free values
(R115, log entry 10). -/
def State.divideUndefined (s : State) (reg : Reg) (c : Bool) : State :=
  let t := (s.setReg reg (Config.freeWord s.draws)).setReg (oddPartner reg) (Config.freeWord (s.draws + 1))
  let u := t.setFlags { n := Config.freeBit s.draws, z := Config.freeBit (s.draws + 1), v := true, c := c }
  { u with draws := s.draws + 2 }

/-- The quotient does not fit in 16 bits signed (R115). -/
def quotientOverflows (q : Int) : Bool := decide (q < -32768 ∨ 32767 < q)

/-- The arithmetic of DIV over the pair and a divisor: truncation toward zero, remainder with the dividend's sign
(R115). -/
def divideInto (reg : Reg) (v : Word) (s : State) : State :=
  if v = 0#16 then s.divideUndefined reg true
  else
    let q := (s.pair reg).toInt.tdiv v.toInt
    let m := (s.pair reg).toInt.tmod v.toInt
    if quotientOverflows q then s.divideUndefined reg false
    else
      ((s.setReg reg (BitVec.ofInt 16 q)).setReg (oddPartner reg) (BitVec.ofInt 16 m)).setFlags
        { n := decide (q < 0), z := decide (q = 0), v := false, c := false }

/-- DIV: the pair divided by the operand; an odd R is refused (R115). -/
def execDiv (reg : Reg) (src : Operand) (s : State) : Out :=
  finish <| requireEis "DIV" s <|
    if isEvenReg reg then
      (readOperandWord src s).bind fun v s1 => .ok () (divideInto reg v s1)
    else .refused (.oddRegisterPair "DIV")

/-- ASH: R shifted by the signed 6-bit count in the operand (R116). -/
def execAsh (reg : Reg) (src : Operand) (s : State) : Out :=
  finish <| requireEis "ASH" s <|
    (readOperandWord src s).bind fun v s1 =>
    let x := arithShift (s1.reg reg) (v.extractLsb' 0 6)
    .ok () ((s1.setReg reg x.1).setFlags x.2)

/-- ASHC: as ASH on the pair; an odd R is refused (R117). -/
def execAshc (reg : Reg) (src : Operand) (s : State) : Out :=
  finish <| requireEis "ASHC" s <|
    if isEvenReg reg then
      (readOperandWord src s).bind fun v s1 =>
      let x := arithShift (s1.pair reg) (v.extractLsb' 0 6)
      .ok () ((s1.setPair reg x.1).setFlags x.2)
    else .refused (.oddRegisterPair "ASHC")

/-- XOR: the register, read first, into the destination (R118). -/
def execXor (reg : Reg) (dst : Operand) (s : State) : Out :=
  finish <| requireEis "XOR" s <| modifyWord (xorOp (s.reg reg)) dst s

/-- SOB: one subtracted from the register, and a backward branch unless it is zero; no flag changes (R121). -/
def execSob (reg : Reg) (off6 : BitVec 6) (s : State) : Out :=
  finish <| requireEis "SOB" s <|
    let s1 := s.setReg reg (s.reg reg - 1#16)
    if s1.reg reg = 0#16 then .ok () s1 else .ok () (s1.setReg .r7 (s1.pc - 2#16 * off6.setWidth 16))

/-- FADD: the spec gives the word no meaning under any parameter (R122). -/
def execFadd (_ : Reg) (_ : State) : Out := .refused (.floatingInstructionSet "FADD")

/-- FSUB: the spec gives the word no meaning under any parameter (R122). -/
def execFsub (_ : Reg) (_ : State) : Out := .refused (.floatingInstructionSet "FSUB")

/-- FMUL: the spec gives the word no meaning under any parameter (R122). -/
def execFmul (_ : Reg) (_ : State) : Out := .refused (.floatingInstructionSet "FMUL")

/-- FDIV: the spec gives the word no meaning under any parameter (R122). -/
def execFdiv (_ : Reg) (_ : State) : Out := .refused (.floatingInstructionSet "FDIV")

/-- The words 0o170000 to 0o177777: the spec gives them no meaning (R123). -/
def execSpace1111 (_ : BitVec 12) (_ : State) : Out := .refused .undefinedEisSpace

end Sys2Proof.Machine
end

