-- ==== Sys2Proof/Machine/SingleOperand.lean ====
section
/-! DEFINITION. The single-operand instructions SWAB to MFPS (spec/43_single_operand.md). -/

namespace Sys2Proof.Machine

/-- SWAB: the two bytes of the destination exchanged (R130). -/
def execSwab (dst : Operand) (s : State) : Out :=
  finish (modifyWord swabOp dst s)

/-- CLR: all bits of the destination cleared; it is not read (R131). -/
def execClr (dst : Operand) (s : State) : Out :=
  finish (storeOperandWord 0#16 { n := false, z := true, v := false, c := false } dst s)

/-- CLRB: as CLR on a byte (R132). -/
def execClrb (dst : Operand) (s : State) : Out :=
  finish (storeOperandByte 0#8 { n := false, z := true, v := false, c := false } dst s)

/-- COM: ones-complement (R133). -/
def execCom (dst : Operand) (s : State) : Out :=
  finish (modifyWord comOp dst s)

/-- COMB: as COM on a byte (R134). -/
def execComb (dst : Operand) (s : State) : Out :=
  finish (modifyByte comOp dst s)

/-- INC: one added (R135). -/
def execInc (dst : Operand) (s : State) : Out :=
  finish (modifyWord incOp dst s)

/-- INCB: as INC on a byte (R136). -/
def execIncb (dst : Operand) (s : State) : Out :=
  finish (modifyByte incOp dst s)

/-- DEC: one subtracted (R137). -/
def execDec (dst : Operand) (s : State) : Out :=
  finish (modifyWord decOp dst s)

/-- DECB: as DEC on a byte (R138). -/
def execDecb (dst : Operand) (s : State) : Out :=
  finish (modifyByte decOp dst s)

/-- NEG: twos-complement (R139). -/
def execNeg (dst : Operand) (s : State) : Out :=
  finish (modifyWord negOp dst s)

/-- NEGB: as NEG on a byte (R140). -/
def execNegb (dst : Operand) (s : State) : Out :=
  finish (modifyByte negOp dst s)

/-- ADC: the carry added (R141). -/
def execAdc (dst : Operand) (s : State) : Out :=
  finish (modifyWord adcOp dst s)

/-- ADCB: as ADC on a byte (R142). -/
def execAdcb (dst : Operand) (s : State) : Out :=
  finish (modifyByte adcOp dst s)

/-- SBC: the carry subtracted (R143). -/
def execSbc (dst : Operand) (s : State) : Out :=
  finish (modifyWord sbcOp dst s)

/-- SBCB: as SBC on a byte (R144). -/
def execSbcb (dst : Operand) (s : State) : Out :=
  finish (modifyByte sbcOp dst s)

/-- TST: N and Z from the operand, V and C cleared; nothing is written (R145). -/
def execTst (dst : Operand) (s : State) : Out :=
  finish <| (readOperandWord dst s).bind fun d s1 => .ok () (s1.setFlags (resultFlags d false))

/-- TSTB: as TST on a byte (R146). -/
def execTstb (dst : Operand) (s : State) : Out :=
  finish <| (readOperandByte dst s).bind fun d s1 => .ok () (s1.setFlags (resultFlags d false))

/-- ROR: rotate right through C (R147). -/
def execRor (dst : Operand) (s : State) : Out :=
  finish (modifyWord rorOp dst s)

/-- RORB: as ROR on a byte (R148). -/
def execRorb (dst : Operand) (s : State) : Out :=
  finish (modifyByte rorOp dst s)

/-- ROL: rotate left through C (R149). -/
def execRol (dst : Operand) (s : State) : Out :=
  finish (modifyWord rolOp dst s)

/-- ROLB: as ROL on a byte (R150). -/
def execRolb (dst : Operand) (s : State) : Out :=
  finish (modifyByte rolOp dst s)

/-- ASR: arithmetic shift right by one (R151). -/
def execAsr (dst : Operand) (s : State) : Out :=
  finish (modifyWord asrOp dst s)

/-- ASRB: as ASR on a byte (R152). -/
def execAsrb (dst : Operand) (s : State) : Out :=
  finish (modifyByte asrOp dst s)

/-- ASL: arithmetic shift left by one (R153). -/
def execAsl (dst : Operand) (s : State) : Out :=
  finish (modifyWord aslOp dst s)

/-- ASLB: as ASL on a byte (R154). -/
def execAslb (dst : Operand) (s : State) : Out :=
  finish (modifyByte aslOp dst s)

/-- MARK: the parameters on the stack are dropped, the return address in R5 taken, and R5 popped (R157). -/
def execMark (nn : BitVec 6) (s : State) : Out :=
  let s1 := s.setReg .r6 (s.pc + 2#16 * nn.setWidth 16)
  let s2 := s1.setReg .r7 (s1.reg .r5)
  finish <| (pop s2).bind fun v s3 => .ok () (s3.setReg .r5 v)

/-- MTPS: the low byte of the PS from a byte operand, but for T, which keeps its value (R158). -/
def execMtps (src : Operand) (s : State) : Out :=
  finish <|
    (readOperandByte src s).bind fun b s1 =>
    .ok () (s1.writePs ((s1.ps &&& 0o177420#16) ||| (b.setWidth 16 &&& 0o357#16)))

/-- SXT: all ones if N is set, zero if it is clear; the destination is not read (R159). -/
def execSxt (dst : Operand) (s : State) : Out :=
  finish <|
    storeOperandWord (if s.flagN then 0o177777#16 else 0#16)
      { n := s.flagN, z := !s.flagN, v := false, c := s.flagC } dst s

/-- MFPS: the low byte of the PS, as it was before the flags change; a register takes it sign-extended (R160). -/
def execMfps (dst : Operand) (s : State) : Out :=
  let v := lowByte s.ps
  finish <|
    (resolve .byte dst s).bind fun l s1 =>
    (writeLocSext l v s1).bind fun _ s2 => .ok () (s2.setFlags (resultFlags v s2.flagC))

end Sys2Proof.Machine
end

