-- ==== Sys2Proof/Machine/Unlisted.lean ====
section
/-! DEFINITION. The unlisted words with their supplement, and the unused words (spec/47_unlisted_supplement.md, R60). -/

namespace Sys2Proof.Machine

/-- R220: an instruction of the supplement, or the reserved-instruction trap without it. -/
def supplementOr (s : State) (x : Out) : Out :=
  if s.params.supplementPresent then x else raise .reservedInstruction s

/-- The word 0o000003: BPT when `BPT_WORD` says so, else reserved (R221). -/
def execUnlisted000003 (s : State) : Out :=
  match s.params.bptWord with
  | .word3 => raise .breakpoint s
  | .word4 => raise .reservedInstruction s

/-- The word 0o000006: RTT under the supplement, else reserved. RTT is RTI, but a T bit it pops traps only after the
next instruction (R222, R243). -/
def execUnlisted000006 (s : State) : Out :=
  supplementOr s <|
    finish <| (trapReturn s).bind fun _ t => .ok () { t with traceArmed := t.traceArmed && !t.flagT }

/-- The words 0o000230 to 0o000237: reserved, with or without the supplement (R223). -/
def execUnlisted00023x (_ : BitVec 3) (s : State) : Out := raise .reservedInstruction s

/-- The words 0o104000 to 0o104377: EMT under the supplement, else reserved (R224). -/
def execUnlisted1040xx (_ : BitVec 8) (s : State) : Out := supplementOr s (raise .emt s)

/-- The words 0o104400 to 0o104777: TRAP under the supplement, else reserved (R224). -/
def execUnlisted1044xx (_ : BitVec 8) (s : State) : Out := supplementOr s (raise .trap s)

/-- The unused word 0o000007: a reserved-instruction trap (R60, R234). -/
def execUnused000007 (s : State) : Out := raise .reservedInstruction s

/-- The unused words 0o000010 to 0o000017: a reserved-instruction trap (R60, R234). -/
def execUnused000010 (_ : BitVec 3) (s : State) : Out := raise .reservedInstruction s

/-- The unused words 0o000020 to 0o000037: a reserved-instruction trap (R60, R234). -/
def execUnused000020 (_ : BitVec 4) (s : State) : Out := raise .reservedInstruction s

/-- The unused words 0o000040 to 0o000077: a reserved-instruction trap (R60, R234). -/
def execUnused000040 (_ : BitVec 5) (s : State) : Out := raise .reservedInstruction s

/-- The unused words 0o000210 to 0o000217: a reserved-instruction trap (R60, R234). -/
def execUnused000210 (_ : BitVec 3) (s : State) : Out := raise .reservedInstruction s

/-- The unused words 0o000220 to 0o000227: a reserved-instruction trap (R60, R234). -/
def execUnused000220 (_ : BitVec 3) (s : State) : Out := raise .reservedInstruction s

/-- The unused words 0o006500 to 0o006577: a reserved-instruction trap (R60, R234). -/
def execUnused006500 (_ : BitVec 6) (s : State) : Out := raise .reservedInstruction s

/-- The unused words 0o006600 to 0o006677: a reserved-instruction trap (R60, R234). -/
def execUnused006600 (_ : BitVec 6) (s : State) : Out := raise .reservedInstruction s

/-- The unused words 0o007000 to 0o007777: a reserved-instruction trap (R60, R234). -/
def execUnused007000 (_ : BitVec 9) (s : State) : Out := raise .reservedInstruction s

/-- The unused words 0o075040 to 0o075077: a reserved-instruction trap (R60, R234). -/
def execUnused075040 (_ : BitVec 5) (s : State) : Out := raise .reservedInstruction s

/-- The unused words 0o075100 to 0o075177: a reserved-instruction trap (R60, R234). -/
def execUnused075100 (_ : BitVec 6) (s : State) : Out := raise .reservedInstruction s

/-- The unused words 0o075200 to 0o075377: a reserved-instruction trap (R60, R234). -/
def execUnused075200 (_ : BitVec 7) (s : State) : Out := raise .reservedInstruction s

/-- The unused words 0o075400 to 0o075777: a reserved-instruction trap (R60, R234). -/
def execUnused075400 (_ : BitVec 8) (s : State) : Out := raise .reservedInstruction s

/-- The unused words 0o076000 to 0o076777: a reserved-instruction trap (R60, R234). -/
def execUnused076000 (_ : BitVec 9) (s : State) : Out := raise .reservedInstruction s

/-- The unused words 0o106500 to 0o106577: a reserved-instruction trap (R60, R234). -/
def execUnused106500 (_ : BitVec 6) (s : State) : Out := raise .reservedInstruction s

/-- The unused words 0o106600 to 0o106677: a reserved-instruction trap (R60, R234). -/
def execUnused106600 (_ : BitVec 6) (s : State) : Out := raise .reservedInstruction s

/-- The unused words 0o107000 to 0o107777: a reserved-instruction trap (R60, R234). -/
def execUnused107000 (_ : BitVec 9) (s : State) : Out := raise .reservedInstruction s

end Sys2Proof.Machine
end

