-- ==== Sys2Proof/Machine/Dispatch.lean ====
section
/-! DEFINITION. The meaning of every instruction: one arm per constructor, one call per arm. -/

namespace Sys2Proof.Machine

def exec (i : Instr) (s : State) : Host.Outcome State Fault Refusal :=
  match i with
  | .halt => Sys2Proof.Machine.execHalt s
  | .wait => Sys2Proof.Machine.execWait s
  | .rti => Sys2Proof.Machine.execRti s
  | .unlisted000003 => Sys2Proof.Machine.execUnlisted000003 s
  | .bpt => Sys2Proof.Machine.execBpt s
  | .reset => Sys2Proof.Machine.execReset s
  | .unlisted000006 => Sys2Proof.Machine.execUnlisted000006 s
  | .unused000007 => Sys2Proof.Machine.execUnused000007 s
  | .unused000010 x => Sys2Proof.Machine.execUnused000010 x s
  | .unused000020 x => Sys2Proof.Machine.execUnused000020 x s
  | .unused000040 x => Sys2Proof.Machine.execUnused000040 x s
  | .jmp dst => Sys2Proof.Machine.execJmp dst s
  | .rts reg => Sys2Proof.Machine.execRts reg s
  | .unused000210 x => Sys2Proof.Machine.execUnused000210 x s
  | .unused000220 x => Sys2Proof.Machine.execUnused000220 x s
  | .unlisted00023x n => Sys2Proof.Machine.execUnlisted00023x n s
  | .clx mask => Sys2Proof.Machine.execClx mask s
  | .sex mask => Sys2Proof.Machine.execSex mask s
  | .nop240 => Sys2Proof.Machine.execNop240 s
  | .clc => Sys2Proof.Machine.execClc s
  | .clv => Sys2Proof.Machine.execClv s
  | .clz => Sys2Proof.Machine.execClz s
  | .cln => Sys2Proof.Machine.execCln s
  | .ccc => Sys2Proof.Machine.execCcc s
  | .nop260 => Sys2Proof.Machine.execNop260 s
  | .sec => Sys2Proof.Machine.execSec s
  | .sev => Sys2Proof.Machine.execSev s
  | .sez => Sys2Proof.Machine.execSez s
  | .sen => Sys2Proof.Machine.execSen s
  | .scc => Sys2Proof.Machine.execScc s
  | .swab dst => Sys2Proof.Machine.execSwab dst s
  | .br off8 => Sys2Proof.Machine.execBr off8 s
  | .bne off8 => Sys2Proof.Machine.execBne off8 s
  | .beq off8 => Sys2Proof.Machine.execBeq off8 s
  | .bge off8 => Sys2Proof.Machine.execBge off8 s
  | .blt off8 => Sys2Proof.Machine.execBlt off8 s
  | .bgt off8 => Sys2Proof.Machine.execBgt off8 s
  | .ble off8 => Sys2Proof.Machine.execBle off8 s
  | .jsr reg dst => Sys2Proof.Machine.execJsr reg dst s
  | .clr dst => Sys2Proof.Machine.execClr dst s
  | .com dst => Sys2Proof.Machine.execCom dst s
  | .inc dst => Sys2Proof.Machine.execInc dst s
  | .dec dst => Sys2Proof.Machine.execDec dst s
  | .neg dst => Sys2Proof.Machine.execNeg dst s
  | .adc dst => Sys2Proof.Machine.execAdc dst s
  | .sbc dst => Sys2Proof.Machine.execSbc dst s
  | .tst dst => Sys2Proof.Machine.execTst dst s
  | .ror dst => Sys2Proof.Machine.execRor dst s
  | .rol dst => Sys2Proof.Machine.execRol dst s
  | .asr dst => Sys2Proof.Machine.execAsr dst s
  | .asl dst => Sys2Proof.Machine.execAsl dst s
  | .mark nn => Sys2Proof.Machine.execMark nn s
  | .unused006500 x => Sys2Proof.Machine.execUnused006500 x s
  | .unused006600 x => Sys2Proof.Machine.execUnused006600 x s
  | .sxt dst => Sys2Proof.Machine.execSxt dst s
  | .unused007000 x => Sys2Proof.Machine.execUnused007000 x s
  | .mov src dst => Sys2Proof.Machine.execMov src dst s
  | .cmp src dst => Sys2Proof.Machine.execCmp src dst s
  | .bit src dst => Sys2Proof.Machine.execBit src dst s
  | .bic src dst => Sys2Proof.Machine.execBic src dst s
  | .bis src dst => Sys2Proof.Machine.execBis src dst s
  | .add src dst => Sys2Proof.Machine.execAdd src dst s
  | .mul reg src => Sys2Proof.Machine.execMul reg src s
  | .div reg src => Sys2Proof.Machine.execDiv reg src s
  | .ash reg src => Sys2Proof.Machine.execAsh reg src s
  | .ashc reg src => Sys2Proof.Machine.execAshc reg src s
  | .xor reg dst => Sys2Proof.Machine.execXor reg dst s
  | .fadd reg => Sys2Proof.Machine.execFadd reg s
  | .fsub reg => Sys2Proof.Machine.execFsub reg s
  | .fmul reg => Sys2Proof.Machine.execFmul reg s
  | .fdiv reg => Sys2Proof.Machine.execFdiv reg s
  | .unused075040 x => Sys2Proof.Machine.execUnused075040 x s
  | .unused075100 x => Sys2Proof.Machine.execUnused075100 x s
  | .unused075200 x => Sys2Proof.Machine.execUnused075200 x s
  | .unused075400 x => Sys2Proof.Machine.execUnused075400 x s
  | .unused076000 x => Sys2Proof.Machine.execUnused076000 x s
  | .sob reg off6 => Sys2Proof.Machine.execSob reg off6 s
  | .bpl off8 => Sys2Proof.Machine.execBpl off8 s
  | .bmi off8 => Sys2Proof.Machine.execBmi off8 s
  | .bhi off8 => Sys2Proof.Machine.execBhi off8 s
  | .blos off8 => Sys2Proof.Machine.execBlos off8 s
  | .bvc off8 => Sys2Proof.Machine.execBvc off8 s
  | .bvs off8 => Sys2Proof.Machine.execBvs off8 s
  | .bcc off8 => Sys2Proof.Machine.execBcc off8 s
  | .bcs off8 => Sys2Proof.Machine.execBcs off8 s
  | .bhis off8 => Sys2Proof.Machine.execBhis off8 s
  | .blo off8 => Sys2Proof.Machine.execBlo off8 s
  | .unlisted1040xx code => Sys2Proof.Machine.execUnlisted1040xx code s
  | .unlisted1044xx code => Sys2Proof.Machine.execUnlisted1044xx code s
  | .clrb dst => Sys2Proof.Machine.execClrb dst s
  | .comb dst => Sys2Proof.Machine.execComb dst s
  | .incb dst => Sys2Proof.Machine.execIncb dst s
  | .decb dst => Sys2Proof.Machine.execDecb dst s
  | .negb dst => Sys2Proof.Machine.execNegb dst s
  | .adcb dst => Sys2Proof.Machine.execAdcb dst s
  | .sbcb dst => Sys2Proof.Machine.execSbcb dst s
  | .tstb dst => Sys2Proof.Machine.execTstb dst s
  | .rorb dst => Sys2Proof.Machine.execRorb dst s
  | .rolb dst => Sys2Proof.Machine.execRolb dst s
  | .asrb dst => Sys2Proof.Machine.execAsrb dst s
  | .aslb dst => Sys2Proof.Machine.execAslb dst s
  | .mtps src => Sys2Proof.Machine.execMtps src s
  | .unused106500 x => Sys2Proof.Machine.execUnused106500 x s
  | .unused106600 x => Sys2Proof.Machine.execUnused106600 x s
  | .mfps dst => Sys2Proof.Machine.execMfps dst s
  | .unused107000 x => Sys2Proof.Machine.execUnused107000 x s
  | .movb src dst => Sys2Proof.Machine.execMovb src dst s
  | .cmpb src dst => Sys2Proof.Machine.execCmpb src dst s
  | .bitb src dst => Sys2Proof.Machine.execBitb src dst s
  | .bicb src dst => Sys2Proof.Machine.execBicb src dst s
  | .bisb src dst => Sys2Proof.Machine.execBisb src dst s
  | .sub src dst => Sys2Proof.Machine.execSub src dst s
  | .space1111 x => Sys2Proof.Machine.execSpace1111 x s

end Sys2Proof.Machine
end

