-- ==== Sys2Proof/Machine/Step.lean ====
section
/-! DEFINITION. One step of the machine (R23, R242) and the host's placement of an instruction. -/

namespace Sys2Proof.Machine

/-- One step: a running machine fetches, executes one instruction and passes the boundary after it; a waiting machine
passes the boundary; a halted one makes no step (R23). -/
def step (s : State) : Host.Outcome State Fault Refusal :=
  match s.run with
  | .halted => haltedStep s
  | .waiting => waitingStep s
  | .running =>
    match fetchInstr s with
    | .ok i t => settle (exec i t)
    | .exn e t => settle (raise e t)
    | .fault f => .fault f
    | .refused r => .refused r

/-- `s` with an instruction stored where `step` fetches its next one: three words at the PC, the first from the table's
bits, in the hardware's byte order (R33, R50, log entry 22). -/
def State.withFetchWord (s : State) (nbits w : Nat) : State :=
  s.withProgramAtPc (wordBytes (tableWords nbits w))

end Sys2Proof.Machine
end

