-- ==== Sys2Proof/Machine/Inputs.lean ====
section
/-! DEFINITION. What the outside world can do to the machine (R244, R39, R44, R242): the devices and the console as
inputs. No step of the processor calls these (log entries 9, 24, 33). With no device, no device acts (R244, R249). -/

namespace Sys2Proof.Machine

/-- What a device does, when there is one: with `DEVICES` empty there is none (R244). -/
def State.byDevice (s : State) (act : State → State) : State := if s.params.devices.isEmpty then s else act s

/-- A device adds a request to `pending`, a set (R244). -/
def State.deviceRequests (s : State) (r : Request) : State :=
  s.byDevice fun t => if t.pending.contains r then t else { t with pending := t.pending ++ [r] }

/-- A device withdraws a request (R244). -/
def State.deviceWithdraws (s : State) (r : Request) : State :=
  s.byDevice fun t => { t with pending := t.pending.filter fun q => decide (q ≠ r) }

/-- Devices store to memory by direct memory access: a group of bytes before each of the processor's next memory
accesses, whatever instructions make them (R44). -/
def State.deviceTransfers (s : State) (groups : List (List DeviceStore)) : State :=
  s.byDevice fun t => { t with transfers := t.transfers ++ groups }

/-- A device stores a byte of memory between two steps (R44). -/
def State.deviceStores (s : State) (a : Word) (b : Byte) : State :=
  s.byDevice fun t => t.deviceStore { address := a, value := b }

/-- Power is failing or restored (R233, R252). -/
def State.powerFails (s : State) : State := { s with powerFail := true }

/-- The console asks the processor to halt (R242). -/
def State.consoleHalts (s : State) : State := { s with haltRequest := true }

end Sys2Proof.Machine
end

