-- ==== Sys2Proof/Machine/Start.lean ====
section
/-! DEFINITION. The start state a proof about a program requires (R263), and a program loaded into a state (log entries 22
and 34). -/

namespace Sys2Proof.Machine

/-- A stretch of byte addresses, from `base` for `size` bytes. -/
structure Span where
  base : Nat
  size : Nat
  deriving DecidableEq, Repr

/-- No byte lies in both. -/
def Span.disjoint (x y : Span) : Bool := decide (x.base + x.size ≤ y.base) || decide (y.base + y.size ≤ x.base)

/-- The vector area (R233, R40). -/
def vectorArea : Span where
  base := 0
  size := 0o400

/-- What a program's proof knows of memory (R263): the program's words, its data, and the bytes it needs for its stack. -/
structure Layout where
  program : List Word
  data : List Span
  stackSize : Nat
  deriving DecidableEq, Repr

/-- Memory holds words one after another from an address up, least significant bytes first (R33). -/
def Memory.holdsWords (m : Memory) : Nat → List Word → Bool
  | _, [] => true
  | a, w :: ws =>
    decide (m.read a = some (lowByte w)) && decide (m.read (a + 1) = some (highByte w)) && m.holdsWords (a + 2) ws

/-- Where the program lies: from the PC up. -/
def State.programSpan (s : State) (l : Layout) : Span where
  base := s.pc.toNat
  size := 2 * l.program.length

/-- Where the stack grows: the bytes below SP (R11). -/
def State.stackSpan (s : State) (l : Layout) : Span where
  base := s.sp.toNat - l.stackSize
  size := l.stackSize

/-- The stack region is memory, apart from the program, its data and the vector area (R263). -/
def State.stackFits (s : State) (l : Layout) : Bool :=
  decide (l.stackSize ≤ s.sp.toNat) && decide (s.sp.toNat ≤ s.params.ramTop) &&
    (s.stackSpan l).disjoint (s.programSpan l) && (s.stackSpan l).disjoint vectorArea &&
    l.data.all (s.stackSpan l).disjoint

/-- The start state of R263, an argument of a proof about a program: of every other register and byte it says nothing. -/
def State.starts (s : State) (l : Layout) : Bool :=
  !isOdd s.pc && s.mem.holdsWords s.pc.toNat l.program && !isOdd s.sp && s.stackFits l && !s.flagT &&
    decide (s.run = .running) && s.pending.isEmpty

/-- A state with the program's words loaded from the PC up. -/
def State.load (s : State) (l : Layout) : State := s.storeBytes s.pc (wordBytes l.program)

end Sys2Proof.Machine
end

