-- ==== Sys2Proof/Safety.lean ====
section
/-! DEFINITION. What a sound state is, and the words in which the statements say what an instruction changes and what it
leaves alone. -/

namespace Sys2Proof

/-- The parameters are ones R5 allows: `RAM_TOP` is even and at most 0o160000, `PS_MASK` holds the condition codes and
T, and every device register is an even address of the I/O page (R16, R31, R40). -/
def Params.wf (p : Params) : Bool :=
  decide (p.ramTop ≤ 0o160000) && decide (p.ramTop % 2 = 0) && decide (p.psMask &&& 0o37#16 = 0o37#16) &&
    p.devices.all fun a => decide (0o160000 ≤ a ∧ a < 65536 ∧ a % 2 = 0)

/-- A mode that steps its register (R71). -/
def Mode.isStepping (m : Mode) : Bool :=
  match m with
  | .register => false
  | .deferred => false
  | .autoInc => true
  | .autoIncDef => true
  | .autoDec => true
  | .autoDecDef => true
  | .index => false
  | .indexDef => false

/-- An operand field steps a register: autoincrement or autodecrement of it (R71). -/
abbrev Operand.Steps (o : Operand) (r : Reg) : Prop := o.reg = r ∧ o.mode.isStepping = true

/-- The word instructions on one operand in memory or a register (R130 to R159). -/
def Instr.onWord (o : Operand) : List Instr :=
  [.clr o, .com o, .inc o, .dec o, .neg o, .adc o, .sbc o, .tst o, .ror o, .rol o, .asr o, .asl o, .swab o, .sxt o]

/-- The byte instructions on one operand (R132 to R160). -/
def Instr.onByte (o : Operand) : List Instr :=
  [.clrb o, .comb o, .incb o, .decb o, .negb o, .adcb o, .sbcb o, .tstb o, .rorb o, .rolb o, .asrb o, .aslb o, .mtps o,
    .mfps o]

/-- The word instructions on two operands (R91 to R102). -/
def Instr.onWords (src dst : Operand) : List Instr :=
  [.mov src dst, .cmp src dst, .bit src dst, .bic src dst, .bis src dst, .add src dst, .sub src dst]

/-- The byte instructions on two operands (R92 to R100). -/
def Instr.onBytes (src dst : Operand) : List Instr :=
  [.movb src dst, .cmpb src dst, .bitb src dst, .bicb src dst, .bisb src dst]

namespace Machine

/-- The invariant of the machine: the parameters are allowed ones, memory is in its canonical form and holds bytes
only below `RAM_TOP` (R40), no PS bit outside `PS_MASK` is set (R16), `pending` is a set (R23), a double fault leaves
the machine halted (R241), and with no device nothing is requested and nothing transferred (R244, R249). -/
abbrev State.Inv (s : State) : Prop :=
  s.params.wf = true ∧ s.mem.wf = true ∧ (s.mem.all fun c => decide (c.1 < s.params.ramTop)) = true ∧
    s.ps &&& ~~~s.params.psMask = 0#16 ∧ s.pending.Nodup ∧ (s.doubleFault = true → s.run = .halted) ∧
    (s.params.devices = [] → s.pending = [] ∧ s.transfers = [])

/-! ## Frames -/

/-- Devices have a store to a byte waiting, before some later access of the processor (R44). -/
def State.DeviceStoresTo (s : State) (x : Nat) : Prop := ∃ g ∈ s.transfers, ∃ d ∈ g, d.address.toNat = x

/-- Everything but the registers, the PS, memory, the count of free values and the device stores already made is the
same; the device stores still waiting are the last of those that were. -/
abbrev SameControl (s t : State) : Prop :=
  t.transfers <:+ s.transfers ∧
  t.run = s.run ∧ t.pending = s.pending ∧ t.traceArmed = s.traceArmed ∧ t.powerFail = s.powerFail ∧
    t.haltRequest = s.haltRequest ∧ t.doubleFault = s.doubleFault ∧ t.params = s.params

/-- T, the priority, the mode bits and every other PS bit but the condition codes are the same. -/
abbrev SamePsButFlags (s t : State) : Prop := t.ps &&& 0o177760#16 = s.ps &&& 0o177760#16

/-- Every byte of memory reads as before, but for those that devices store to meanwhile: with no transfer waiting, every
byte (R44). -/
def SameMemory (s t : State) : Prop := ∀ x : Nat, ¬ s.DeviceStoresTo x → t.mem.read x = s.mem.read x

/-- Every byte of memory reads as before, but for the `n` bytes from `a` up and those that devices store to meanwhile. -/
def SameMemoryBut (s t : State) (a : Word) (n : Nat) : Prop :=
  ∀ x : Nat, ¬ s.DeviceStoresTo x → x < a.toNat ∨ a.toNat + n ≤ x → t.mem.read x = s.mem.read x

/-- Two bytes of memory hold a word, least significant byte first (R33). -/
abbrev HoldsWord (t : State) (a : Word) (w : Word) : Prop :=
  t.mem.read a.toNat = some (lowByte w) ∧ t.mem.read (a.toNat + 1) = some (highByte w)

/-- Two bytes of memory hold a word, where devices have not stored to them since (R44). -/
def KeepsWord (s t : State) (a w : Word) : Prop :=
  (¬ s.DeviceStoresTo a.toNat → t.mem.read a.toNat = some (lowByte w)) ∧
    (¬ s.DeviceStoresTo (a.toNat + 1) → t.mem.read (a.toNat + 1) = some (highByte w))

/-- Every register is the same but the PC, the location written if it is a register, and the registers the operand
fields step. -/
def SameRegsBut (s t : State) (l : Option Loc) (fields : List Operand) : Prop :=
  ∀ r : Reg, r ≠ .r7 → l ≠ some (.reg r) → (∀ o ∈ fields, ¬ o.Steps r) → t.reg r = s.reg r

/-! ## Locations -/

/-- A word can be written there: a register, or an even address at which something answers (R35, R41). -/
abbrev WordReady (s : State) (l : Loc) : Prop :=
  match l with
  | .reg _ => True
  | .mem a => isOdd a = false ∧ region s.params a 2 ≠ .absent

/-- A byte can be written there (R35, R41). -/
abbrev ByteReady (s : State) (l : Loc) : Prop :=
  match l with
  | .reg _ => True
  | .mem a => region s.params a 1 ≠ .absent

/-- `t` is `s` with a word stored in a location, as far as registers named by it and memory go: the register takes the
word; of memory exactly the two bytes of the word change, or none when a device takes the write (R83, R39). -/
def WordStored (s t : State) (l : Loc) (v : Word) : Prop :=
  match l with
  | .reg r => t.reg r = v ∧ SameMemory s t
  | .mem a =>
    if region s.params a 2 = .ram then HoldsWord t a v ∧ SameMemoryBut s t a 2 else SameMemory s t

/-- As `WordStored` for a byte; `v` is the whole word a register destination takes. -/
def ByteStored (s t : State) (l : Loc) (b : Byte) (v : Word) : Prop :=
  match l with
  | .reg r => t.reg r = v ∧ SameMemory s t
  | .mem a =>
    if region s.params a 1 = .ram then t.mem.read a.toNat = some b ∧ SameMemoryBut s t a 1 else SameMemory s t

/-- The word a register takes from a byte write, when the location is a register (R83). -/
def keptHighByte (s : State) (l : Loc) (b : Byte) : Word :=
  match l with
  | .reg r => withLowByte (s.reg r) b
  | .mem _ => 0#16

/-! ## Outcomes of instructions -/

/-- The instruction completes: the word `r` is stored in `l`, the condition codes are `f`, the registers besides are
those the operand fields left (`s2`), and everything else is as before. -/
def WordOutcome (i : Instr) (s s2 : State) (fields : List Operand) (l : Loc) (r : Word) (f : Flags) : Prop :=
  ∃ t, exec i s = .next t ∧ WordStored s t l r ∧ (∀ q, l ≠ .reg q → t.reg q = s2.reg q) ∧
    SameRegsBut s t (some l) fields ∧ t.flags = f ∧ SamePsButFlags s t ∧ SameControl s t

/-- As `WordOutcome` for a byte `b`; `v` is the word a register destination takes. -/
def ByteOutcome (i : Instr) (s s2 : State) (fields : List Operand) (l : Loc) (b : Byte) (v : Word) (f : Flags) : Prop :=
  ∃ t, exec i s = .next t ∧ ByteStored s t l b v ∧ (∀ q, l ≠ .reg q → t.reg q = s2.reg q) ∧
    SameRegsBut s t (some l) fields ∧ t.flags = f ∧ SamePsButFlags s t ∧ SameControl s t

/-- The instruction completes and stores nothing: only the condition codes and what the operand fields step change. -/
def FlagOutcome (i : Instr) (s s2 : State) (fields : List Operand) (f : Flags) : Prop :=
  ∃ t, exec i s = .next t ∧ SameMemory s t ∧ (∀ q, t.reg q = s2.reg q) ∧ SameRegsBut s t none fields ∧
    t.flags = f ∧ SamePsButFlags s t ∧ SameControl s t

/-! ## Trap entry -/

/-- The two words of a vector are RAM and are `newPc` and `newPs` when they are read: the first after one turn of the
devices, the second after two (R236, R44). -/
abbrev VectorReady (s : State) (v newPc newPs : Word) : Prop :=
  isOdd v = false ∧ region s.params v 2 = .ram ∧ region s.params (v + 2#16) 2 = .ram ∧
    HoldsWord s.busTurn v newPc ∧ HoldsWord s.busTurn.busTurn (v + 2#16) newPs

/-- A trap through `v` can be taken: the vector can be read, and the two words below SP are RAM that does not overlap it
(R236). -/
abbrev TrapReady (s : State) (v newPc newPs : Word) : Prop :=
  VectorReady s v newPc newPs ∧ isOdd s.sp = false ∧ stackOverlapsVector v s.sp = false ∧
    region s.params (s.sp - 2#16) 2 = .ram ∧ region s.params (s.sp - 4#16) 2 = .ram

/-- `t` is `s` after trap entry: the old PS and then the old PC are on the stack, the new ones are loaded, R0 to R5 are
kept, and the processor runs (R236). -/
def EntersTrap (s t : State) (newPc newPs : Word) : Prop :=
  t.pc = newPc ∧ t.ps = newPs &&& s.params.psMask ∧ t.sp = s.sp - 4#16 ∧
    KeepsWord s t (s.sp - 2#16) s.ps ∧ HoldsWord t (s.sp - 4#16) s.pc ∧ SameMemoryBut s t (s.sp - 4#16) 4 ∧
    (∀ q : Reg, q ≠ .r6 → q ≠ .r7 → t.reg q = s.reg q) ∧ t.run = .running ∧ t.powerFail = s.powerFail ∧
    t.haltRequest = s.haltRequest ∧ t.doubleFault = s.doubleFault ∧ t.params = s.params ∧ t.draws = s.draws ∧
    t.transfers <:+ s.transfers

/-- The instruction takes a trap through `v`, and of the rest only `trace_armed` changes (R236, R243). -/
def TrapOutcome (i : Instr) (s : State) (newPc newPs : Word) : Prop :=
  ∃ t, exec i s = .next t ∧ EntersTrap s t newPc newPs ∧ t.pending = s.pending ∧ t.traceArmed = false

/-- The instruction stops where it stands, in the state `u`, and takes the trap of an exception: the side effects made so
far are kept, and no flag has changed (R238). -/
abbrev Traps (i : Instr) (s : State) (e : Exn) (u : State) : Prop :=
  exec i s = trapEntry (vectorOf e s.params) { u with traceArmed := false }

/-- `u` is `s` after some of an instruction's steps, before any location is written: registers have been stepped, free
values drawn, and devices have had `n` turns; the PS, memory but for the devices' stores, and the rest are as they were
(R238, R44). -/
def AfterSteps (s u : State) (n : Nat) : Prop := u = { State.busTurn^[n] s with regs := u.regs, draws := u.draws }

/-- An operand cannot be read or written: resolving its field raises an exception, or it is a word at an odd address, or
nothing answers at its address, once the devices have had their turn (R231, R232). -/
def OperandRaises (n : Size) (o : Operand) (s : State) (e : Exn) (u : State) : Prop :=
  resolve n o s = .exn e u ∨
    ∃ a t, resolve n o s = .ok (.mem a) t ∧
      ((n = .word ∧ isOdd a = true ∧ e = .oddAddress a ∧ u = t) ∨
        ((n = .word → isOdd a = false) ∧ e = .busTimeout a ∧ u = t.busTurn ∧
          region s.params a (match n with | .word => 2 | .byte => 1) = .absent))

/-- A trap return whose pops trap: the first with SP odd or its word unanswered, and nothing changed; the second with its
word unanswered, the PC loaded and SP past the first (R205, R240, R35, R41, R238). -/
def PopsTrap (i : Instr) (s : State) : Prop :=
  (isOdd s.sp = true → Traps i s (.oddAddress s.sp) s) ∧
    (isOdd s.sp = false → region s.params s.sp 2 = .absent → Traps i s (.busTimeout s.sp) s.busTurn) ∧
    ∀ newPc s1, readWord s.sp s = .ok newPc s1 → region s.params (s.sp + 2#16) 2 = .absent →
      Traps i s (.busTimeout (s.sp + 2#16)) ((s1.setReg .r6 (s.sp + 2#16)).setReg .r7 newPc).busTurn

/-- `t` is `s` after a double fault that left SP at `sp`: halted with the marker set, the PC, the PS and R0 to R5 as they
were (R241, log entry 16). -/
def DoubleFaulted (s t : State) (sp : Word) : Prop :=
  t.run = .halted ∧ t.doubleFault = true ∧ t.pc = s.pc ∧ t.ps = s.ps ∧ t.sp = sp ∧
    (∀ q : Reg, q ≠ .r6 → t.reg q = s.reg q) ∧ t.pending = s.pending ∧ t.traceArmed = s.traceArmed ∧
    t.powerFail = s.powerFail ∧ t.haltRequest = s.haltRequest ∧ t.params = s.params ∧ t.draws = s.draws ∧
    t.transfers <:+ s.transfers

end Machine

end Sys2Proof
end

