-- ==== Sys2Proof/Certificates/Slice0/Obligations.lean ====
section
/-! DEFINITION. The statements for the provers. Where a statement rests on a decision of the spec (a passage the spec
marks as general knowledge adopted by a decision D<n>) or on a choice of the model, its docstring names it.

Every statement allows for devices that store to memory while an instruction runs (R44, log entry 33): `busTurn` is what
they do before one access, and a frame over memory leaves out the bytes they store to. With no transfer waiting,
`busTurn` changes nothing and a frame is over every byte. -/

open Sys2Proof Sys2Proof.Machine

/-! ## Encoding -/

/-- Decoding the word of any instruction gives its core instruction, and decoding the bytes of a well-formed
instruction gives it back with the bytes after it (R56, R64; second names R68, R193). -/
def Obligations.DecodeEncodeRoundTrip : Prop :=
  ∀ i : Instr, decodeWord (encodeWord i) = i.core ∧
    ∀ rest : List Byte, i.wellFormed = true → decode (wordBytes (encode i) ++ rest) = .ok (i, rest)

/-- Every one of the 65,536 words is the word of the well-formed instruction it decodes to: the map of R56 covers each
word exactly once and no bit of a word is dropped. -/
def Obligations.EncodeDecodeEveryWord : Prop :=
  ∀ w : Word, (decodeWord w).wellFormed = true ∧ encodeWord (decodeWord w) = w

/-- Words written out from the spec's encodings decode to the instructions they stand for (R51 to R55, R135, C1, C2). -/
def Obligations.SampleWordsDecode : Prop :=
  decodeWord 0b0001000000100110#16 = .mov ⟨.register, .r0⟩ ⟨.autoDec, .r6⟩ ∧
  decodeWord 0b0000101010011011#16 = .inc ⟨.autoIncDef, .r3⟩ ∧
  decodeWord 0b0000001011111101#16 = .bne 0o375#8 ∧
  decodeWord 0b0000000010110101#16 = .sex 0b0101#4 ∧
  decodeWord 0b0000100101001001#16 = .jsr .r5 ⟨.deferred, .r1⟩ ∧
  decodeWord 0b1000110100010111#16 = .mtps ⟨.autoInc, .r7⟩ ∧
  decodeWord 0b0111000010000001#16 = .mul .r2 ⟨.register, .r1⟩ ∧
  decodeWord 0b0111111010000011#16 = .sob .r2 3#6 ∧
  decodeWord 0b1000100100000101#16 = .unlisted1044xx 5#8 ∧
  decodeWord 0b0000000000000111#16 = .unused000007

/-! ## The step -/

/-- When the two bytes at the PC, as the fetch finds them after the devices' turn, decode to an instruction, a step is that
instruction on the state whose PC has moved past its word and whose `trace_armed` is the T bit, and then the boundary
(R13, R44, R242, R243). -/
def Obligations.StepRunsDecodedInstruction : Prop :=
  ∀ (s : State) (lo hi : Byte) (i : Instr), s.run = .running → isOdd s.pc = false →
    region s.params s.pc 2 = .ram → s.busTurn.mem.read s.pc.toNat = some lo →
    s.busTurn.mem.read (s.pc + 1#16).toNat = some hi → decode [lo, hi] = .ok (i, []) →
    i.wellFormed = true ∧
      step s = settle (exec i ({ s.busTurn with traceArmed := s.flagT }.setReg .r7 (s.pc + 2#16)))

/-- A fetch at an odd PC is an odd address trap, whose saved PC is the odd address itself (R14, R35, R237; entry into the
trap is R236, decisions D4 and D5, log entries 1 and 31). -/
def Obligations.OddFetchTraps : Prop :=
  ∀ s : State, s.run = .running → isOdd s.pc = true →
    step s = settle (trapEntry s.params.vectors.oddAddress { s with traceArmed := false })

/-- A halted machine makes no step; nor does a waiting one that no event wakes (R203, R204). That the two are named
faults is the model's choice (log entry 15). -/
def Obligations.StoppedMachineMakesNoStep : Prop :=
  (∀ s : State, s.run = .halted → step s = .fault .halted) ∧
  (∀ s : State, s.run = .waiting → s.traceArmed = false → s.powerFail = false → s.haltRequest = false →
    (∀ r ∈ s.pending, r.level.val ≤ s.priority) → step s = .fault .waitsForever)

/-- With no trace trap armed, no event waiting and no request above the priority, the boundary changes nothing
(R242, R245). -/
def Obligations.QuietBoundaryChangesNothing : Prop :=
  ∀ s : State, s.traceArmed = false → s.powerFail = false → s.haltRequest = false →
    (∀ r ∈ s.pending, r.level.val ≤ s.priority) → settle (.next s) = .next s

/-! ## Reset and invariants -/

/-- The state after reset: the PC and PS from the parameters, running, nothing pending (R24, R261). With a program loaded
into it, where the parameters allow, it is a start state of R263: PC and SP even, the program's words at the PC, the stack
in memory and apart from program, data and vectors, T = 0, running, nothing pending. A start state constrains no other
register and no other byte (R263, decision D14). The values of `State.reset`, that registers hold any, and the loading,
are the model's (log entries 5, 6, 8, 22, 34). -/
def Obligations.ResetStartState : Prop :=
  (∀ p : Params, (State.resetWith p).pc = p.resetPc ∧ (State.resetWith p).ps = p.resetPs &&& p.psMask ∧
    (State.resetWith p).run = .running ∧ (State.resetWith p).pending = [] ∧ (State.resetWith p).transfers = [] ∧
    (State.resetWith p).mem = []) ∧
  isOdd State.reset.pc = false ∧ isOdd State.reset.sp = false ∧ State.reset.flagT = false ∧
  region State.reset.params (State.reset.sp - 2#16) 2 = .ram ∧
  (∀ (p : Params) (l : Layout), isOdd p.resetPc = false → (p.resetPs &&& p.psMask).getLsbD 4 = false →
    p.resetPc.toNat + 2 * l.program.length ≤ p.ramTop → p.ramTop ≤ 0o160000 → (State.resetWith p).stackFits l = true →
    ((State.resetWith p).load l).starts l = true) ∧
  (∀ (s : State) (l : Layout), s.starts l = true →
    isOdd s.pc = false ∧ isOdd s.sp = false ∧ s.flagT = false ∧ s.run = .running ∧ s.pending = [] ∧
    (∀ n w, l.program[n]? = some w → s.mem.read (s.pc.toNat + 2 * n) = some (lowByte w) ∧
      s.mem.read (s.pc.toNat + 2 * n + 1) = some (highByte w)) ∧
    (∀ x, s.sp.toNat - l.stackSize ≤ x → x < s.sp.toNat →
      x < s.params.ramTop ∧ 0o400 ≤ x ∧ (x < s.pc.toNat ∨ s.pc.toNat + 2 * l.program.length ≤ x) ∧
      ∀ d ∈ l.data, x < d.base ∨ d.base + d.size ≤ x) ∧
    (∀ q v, q ≠ .r6 → q ≠ .r7 → (s.setReg q v).starts l = true) ∧
    (∀ (a : Word) (b : Byte), a.toNat < s.pc.toNat ∨ s.pc.toNat + 2 * l.program.length ≤ a.toNat →
      (s.storeByte a b).starts l = true))

/-- The invariant holds after reset (log entries 5 to 8 name the values the model chose). -/
def Obligations.ResetHasInvariant : Prop := State.reset.Inv

/-- Every step keeps the invariant, from every state that has it. -/
def Obligations.StepKeepsInvariant : Prop := ∀ s t : State, s.Inv → step s = .next t → t.Inv

/-- No step changes a parameter (R5: parameters are arguments of the model). -/
def Obligations.StepKeepsParameters : Prop := ∀ s t : State, step s = .next t → t.params = s.params

/-- What the outside world can do keeps the invariant (R244, R44, R242); with `DEVICES` empty no device does anything, so
that nothing is ever pending (R244, R249). -/
def Obligations.InputsKeepInvariant : Prop :=
  ∀ s : State,
    (s.Inv →
      (∀ r, (s.deviceRequests r).Inv ∧ (s.deviceWithdraws r).Inv) ∧ (∀ gs, (s.deviceTransfers gs).Inv) ∧
      (∀ a b, (s.deviceStores a b).Inv) ∧ s.powerFails.Inv ∧ s.consoleHalts.Inv) ∧
    (s.params.devices = [] →
      (∀ r, s.deviceRequests r = s ∧ s.deviceWithdraws r = s) ∧ (∀ gs, s.deviceTransfers gs = s) ∧
      ∀ a b, s.deviceStores a b = s) ∧
    (s.params.devices ≠ [] → ∀ r, r ∈ (s.deviceRequests r).pending ∧ r ∉ (s.deviceWithdraws r).pending)

/-- Only MTPS, RTI, RTT and trap entry write the priority; only RTI, RTT and trap entry write T; only RTI, RTT and trap
entry write the mode bits (R19, R20, R21). An instruction that takes a trap takes that of an exception it raised, in the
state it had reached, with the PS not yet written, no location written, and T, the priority and the modes as they were
(R236, R238, decisions D4, D5; `traceArmed` cleared is log entry 31, that the trap is entered log entry 1). -/
def Obligations.OnlyTrapsAndReturnsWriteControlBits : Prop :=
  ∀ (i : Instr) (s t : State), s.Inv → exec i s = .next t → i ≠ .rti → i ≠ .unlisted000006 →
    (∃ e u n, Traps i s e u ∧ AfterSteps s u n ∧ u.ps = s.ps ∧ SameMemory s u ∧ SameControl s u) ∨
    (t.ps &&& 0o170020#16 = s.ps &&& 0o170020#16 ∧ ((∀ o, i ≠ .mtps o) → t.priority = s.priority))

/-! ## Memory -/

/-- The word at an even address of RAM has the byte there as its low byte and the byte after it as its high byte; bytes are
read one at a time (R33). That words of the instruction stream are words read by the same rule is R33's derived
sentence; the PC's step is R13. -/
def Obligations.WordIsLittleEndian : Prop :=
  ∀ (s : State) (a : Word) (lo hi : Byte), isOdd a = false → region s.params a 2 = .ram →
    s.busTurn.mem.read a.toNat = some lo → s.busTurn.mem.read (a.toNat + 1) = some hi →
    ∃ w, readWord a s = .ok w s.busTurn ∧ w.extractLsb' 0 8 = lo ∧ w.extractLsb' 8 8 = hi ∧
      readByte a s = .ok lo s.busTurn ∧ readByte (a + 1#16) s = .ok hi s.busTurn ∧
      (s.pc = a → fetch s = .ok w (s.busTurn.setReg .r7 (a + 2#16)))

/-- A read gives what the latest write left, by the processor or by a device (R34, R39, R44): bytes read after a word write,
a word read after byte writes, and a byte write that changes only its own byte; a byte that a device stores before an
access is what that access reads, so that an instruction which reads one word twice can read two values. -/
def Obligations.MixedWidths : Prop :=
  (∀ (s : State) (a w : Word) (p q : Byte), isOdd a = false → region s.params a 2 = .ram →
    (∃ t, writeWord a w s = .ok () t ∧ SameMemoryBut s t a 2 ∧
      (¬ s.DeviceStoresTo a.toNat → readByte a t = .ok (w.extractLsb' 0 8) t.busTurn) ∧
      (¬ s.DeviceStoresTo (a.toNat + 1) → readByte (a + 1#16) t = .ok (w.extractLsb' 8 8) t.busTurn)) ∧
    (∃ t u, writeByte a p s = .ok () t ∧ SameMemoryBut s t a 1 ∧ writeByte (a + 1#16) q t = .ok () u ∧
      (¬ s.DeviceStoresTo a.toNat → ¬ s.DeviceStoresTo (a.toNat + 1) → readWord a u = .ok (q ++ p) u.busTurn))) ∧
  (∀ (s : State) (ds : List DeviceStore) (d : DeviceStore) (gs : List (List DeviceStore)),
    s.transfers = (ds ++ [d]) :: gs → region s.params d.address 1 = .ram →
    readByte d.address s = .ok d.value s.busTurn ∧ s.busTurn.transfers = gs) ∧
  (∀ (s : State) (q : Reg) (v w : Word) (gs : List (List DeviceStore)), isOdd (s.reg q) = false →
    region s.params (s.reg q) 2 = .ram → HoldsWord s (s.reg q) v →
    s.transfers = [] :: [⟨s.reg q, lowByte w⟩, ⟨s.reg q + 1#16, highByte w⟩] :: gs →
    ∃ s1 s2, sourceDestWord ⟨.deferred, q⟩ ⟨.deferred, q⟩ s = .ok (v, .mem (s.reg q)) s1 ∧
      readLocWord (.mem (s.reg q)) s1 = .ok w s2)

/-- A word access at an odd address is not made and is an odd address exception; an access of any width that nothing
answers is a bus timeout; every other access raises nothing: a write is made, and a read of RAM that has been written, or
of a device, is made (R35, R41, R39; the timeout is decision D16). -/
def Obligations.AccessExceptions : Prop :=
  ∀ (s : State) (a : Word) (w : Word) (b : Byte),
    (isOdd a = true → readWord a s = .exn (.oddAddress a) s ∧ writeWord a w s = .exn (.oddAddress a) s) ∧
    (isOdd a = false → region s.params a 2 = .absent →
      readWord a s = .exn (.busTimeout a) s.busTurn ∧ writeWord a w s = .exn (.busTimeout a) s.busTurn) ∧
    (region s.params a 1 = .absent →
      readByte a s = .exn (.busTimeout a) s.busTurn ∧ writeByte a b s = .exn (.busTimeout a) s.busTurn) ∧
    (isOdd a = false → region s.params a 2 ≠ .absent →
      (∃ t, writeWord a w s = .ok () t) ∧ (∀ e u, readWord a s ≠ .exn e u) ∧
      (region s.params a 2 = .ram → HoldsWord s.busTurn a w → readWord a s = .ok w s.busTurn) ∧
      (region s.params a 2 = .device → ∃ v t, readWord a s = .ok v t)) ∧
    (region s.params a 1 ≠ .absent →
      (∃ t, writeByte a b s = .ok () t) ∧ (∀ e u, readByte a s ≠ .exn e u) ∧
      (region s.params a 1 = .ram → s.busTurn.mem.read a.toNat = some b → readByte a s = .ok b s.busTurn) ∧
      (region s.params a 1 = .device → ∃ v t, readByte a s = .ok v t))

/-! ## Operands -/

/-- The modes but register mode and plain autostep: deferred, autoincrement and autodecrement deferred, index, and index
deferred; in the index modes the register is read after the fetch (R74, R76, R78, R79, R80). That modes 3 and 5 step by 2
is R71, decision D1: the source gives no amount. Reads of pointer and index words are given as hypotheses. -/
def Obligations.ModesGiveLocations : Prop :=
  ∀ (s : State) (r : Reg) (n : Size),
    resolve n ⟨.deferred, r⟩ s = .ok (.mem (s.reg r)) s ∧
    (∀ a t, readWord (s.reg r) s = .ok a t →
      resolve n ⟨.autoIncDef, r⟩ s = .ok (.mem a) (t.setReg r (s.reg r + 2#16))) ∧
    (∀ a t, readWord (s.reg r - 2#16) (s.setReg r (s.reg r - 2#16)) = .ok a t →
      resolve n ⟨.autoDecDef, r⟩ s = .ok (.mem a) t ∧ t.reg r = s.reg r - 2#16) ∧
    (∀ x t, readWord s.pc s = .ok x t →
      resolve n ⟨.index, r⟩ s =
        .ok (.mem ((if r = .r7 then s.pc + 2#16 else s.reg r) + x)) (t.setReg .r7 (s.pc + 2#16)) ∧
      ∀ a u, readWord ((if r = .r7 then s.pc + 2#16 else s.reg r) + x) (t.setReg .r7 (s.pc + 2#16)) = .ok a u →
        resolve n ⟨.indexDef, r⟩ s = .ok (.mem a) u)

/-- Register mode, and the step of autoincrement and autodecrement: 1 for a byte operand through R0 to R5, else 2 (R73,
R75, R77; the step is R71, decision D1). -/
def Obligations.AutostepLocations : Prop :=
  ∀ (s : State) (r : Reg) (n : Size),
    let amount : Word := if n = .byte ∧ r ≠ .r6 ∧ r ≠ .r7 then 1#16 else 2#16
    resolve n ⟨.register, r⟩ s = .ok (.reg r) s ∧
    resolve n ⟨.autoInc, r⟩ s = .ok (.mem (s.reg r)) (s.setReg r (s.reg r + amount)) ∧
    resolve n ⟨.autoDec, r⟩ s = .ok (.mem (s.reg r - amount)) (s.setReg r (s.reg r - amount))

/-- Register 7 in the modes, for an instruction at address A whose second word is X: immediate is the word at A+2,
absolute the address X, relative A+4+X, relative deferred the word there; the PC is A+4 after it (R81). -/
def Obligations.RegisterSevenModes : Prop :=
  ∀ (s : State) (A x : Word) (n : Size), s.pc = A + 2#16 → isOdd A = false →
    region s.params (A + 2#16) 2 = .ram → HoldsWord s.busTurn (A + 2#16) x →
    let t := s.setReg .r7 (A + 4#16)
    let u := s.busTurn.setReg .r7 (A + 4#16)
    resolve n ⟨.autoInc, .r7⟩ s = .ok (.mem (A + 2#16)) t ∧
    readLocWord (.mem (A + 2#16)) t = .ok x u ∧ readLocByte (.mem (A + 2#16)) t = .ok (lowByte x) u ∧
    resolve n ⟨.autoIncDef, .r7⟩ s = .ok (.mem x) u ∧
    resolve n ⟨.index, .r7⟩ s = .ok (.mem (A + 4#16 + x)) u ∧
    ∀ y, isOdd (A + 4#16 + x) = false → region s.params (A + 4#16 + x) 2 = .ram →
      HoldsWord u.busTurn (A + 4#16 + x) y → resolve n ⟨.indexDef, .r7⟩ s = .ok (.mem y) u.busTurn

/-- What resolving a field can change: the register it steps and the PC, which moves by 2 exactly when the field
consumes a following word; nothing of memory but where devices store, of the PS or of the
rest (R58, R72). -/
def Obligations.ResolveFrame : Prop :=
  ∀ (s t : State) (o : Operand) (n : Size) (l : Loc), resolve n o s = .ok l t →
    SameMemory s t ∧ t.ps = s.ps ∧ SameControl s t ∧ (∀ r, r ≠ .r7 → ¬ o.Steps r → t.reg r = s.reg r) ∧
    (o.mode ≠ .autoDec → o.mode ≠ .autoDecDef → t.pc = s.pc + 2#16 * BitVec.ofNat 16 o.extraWords) ∧
    ((∃ r, l = .reg r) ↔ o.mode = .register)

/-- A register as the source and stepped by the destination, OP Rn,(Rn)+, OP Rn,-(Rn), OP Rn,@(Rn)+ and OP Rn,@-(Rn), for
words and bytes, under the three values of `SAME_REG_POLICY` (R85, decision D13): no meaning, the value before the step,
the value after it. -/
def Obligations.SameRegisterForms : Prop :=
  ∀ (s : State) (r : Reg), r ≠ .r7 →
    let x := s.reg r
    (s.params.sameReg = .refuse → ∀ m ∈ [Mode.autoInc, .autoDec, .autoIncDef, .autoDecDef],
      sourceDestWord ⟨.register, r⟩ ⟨m, r⟩ s = .refused .sameRegister ∧
      sourceDestByte ⟨.register, r⟩ ⟨m, r⟩ s = .refused .sameRegister) ∧
    (s.params.sameReg ≠ .refuse →
      let used (n : Word) : Word := if s.params.sameReg = .initial then x else n
      let k : Word := if r = .r6 then 2#16 else 1#16
      sourceDestWord ⟨.register, r⟩ ⟨.autoInc, r⟩ s = .ok (used (x + 2#16), .mem x) (s.setReg r (x + 2#16)) ∧
      sourceDestByte ⟨.register, r⟩ ⟨.autoInc, r⟩ s = .ok (lowByte (used (x + k)), .mem x) (s.setReg r (x + k)) ∧
      sourceDestWord ⟨.register, r⟩ ⟨.autoDec, r⟩ s =
        .ok (used (x - 2#16), .mem (x - 2#16)) (s.setReg r (x - 2#16)) ∧
      sourceDestByte ⟨.register, r⟩ ⟨.autoDec, r⟩ s =
        .ok (lowByte (used (x - k)), .mem (x - k)) (s.setReg r (x - k)) ∧
      (∀ a t, readWord x s = .ok a t →
        sourceDestWord ⟨.register, r⟩ ⟨.autoIncDef, r⟩ s = .ok (used (x + 2#16), .mem a) (t.setReg r (x + 2#16)) ∧
        sourceDestByte ⟨.register, r⟩ ⟨.autoIncDef, r⟩ s =
          .ok (lowByte (used (x + 2#16)), .mem a) (t.setReg r (x + 2#16))) ∧
      (∀ a t, readWord (x - 2#16) (s.setReg r (x - 2#16)) = .ok a t →
        sourceDestWord ⟨.register, r⟩ ⟨.autoDecDef, r⟩ s = .ok (used (x - 2#16), .mem a) t ∧
        sourceDestByte ⟨.register, r⟩ ⟨.autoDecDef, r⟩ s = .ok (lowByte (used (x - 2#16)), .mem a) t))

/-- A failing access of an operand stops the instruction where it stands, keeps the side effects made so far, changes no
flag and takes the trap of its exception (R231, R232, R238, decisions D5 and D16): an odd address or an unanswered one of a
word operand, an unanswered one of a byte operand, and an odd or unanswered pointer or following word in the modes that
read one, in word and byte instructions, as source, destination or jump target. Entry into the traps is R236, decision
D4, log entries 1 and 31. -/
def Obligations.OddOperandTraps : Prop :=
  ∀ (s : State) (src dst : Operand),
    -- a pointer or a following word
    (∀ (n : Size) (r : Reg) (e : Exn) (u : State),
      (readWord (s.reg r) s = .exn e u → resolve n ⟨.autoIncDef, r⟩ s = .exn e u) ∧
      (readWord (s.reg r - 2#16) (s.setReg r (s.reg r - 2#16)) = .exn e u → resolve n ⟨.autoDecDef, r⟩ s = .exn e u) ∧
      (readWord s.pc s = .exn e u → resolve n ⟨.index, r⟩ s = .exn e u ∧ resolve n ⟨.indexDef, r⟩ s = .exn e u) ∧
      (∀ x t, fetch s = .ok x t → readWord (t.reg r + x) t = .exn e u → resolve n ⟨.indexDef, r⟩ s = .exn e u)) ∧
    -- the operand of an instruction with one
    (∀ (e : Exn) (u : State), OperandRaises .word dst s e u →
      (∀ i ∈ Instr.onWord dst, Traps i s e u) ∧
      (s.params.eisPresent = true → ∀ q,
        Traps (.mul q dst) s e u ∧ Traps (.ash q dst) s e u ∧ Traps (.xor q dst) s e u ∧
        (oddPartner q ≠ q → Traps (.div q dst) s e u ∧ Traps (.ashc q dst) s e u))) ∧
    (∀ (e : Exn) (u : State), OperandRaises .byte dst s e u → ∀ i ∈ Instr.onByte dst, Traps i s e u) ∧
    -- the address of a jump
    (∀ (e : Exn) (u : State), resolve .word dst s = .exn e u →
      Traps (.jmp dst) s e u ∧ ∀ q, q ≠ .r6 → Traps (.jsr q dst) s e u) ∧
    -- the source, then the destination, of an instruction with two
    (∀ (e : Exn) (u : State), OperandRaises .word src s e u → ∀ i ∈ Instr.onWords src dst, Traps i s e u) ∧
    (∀ (e : Exn) (u : State), OperandRaises .byte src s e u → ∀ i ∈ Instr.onBytes src dst, Traps i s e u) ∧
    (∀ (v : Word) (t : State) (e : Exn) (u : State), readOperandWord src s = .ok v t →
      sameRegisterForm src dst = false → OperandRaises .word dst t e u → ∀ i ∈ Instr.onWords src dst, Traps i s e u) ∧
    (∀ (v : Byte) (t : State) (e : Exn) (u : State), readOperandByte src s = .ok v t →
      sameRegisterForm src dst = false → OperandRaises .byte dst t e u → ∀ i ∈ Instr.onBytes src dst, Traps i s e u)

/-! ## Double-operand instructions -/

/-- MOV and MOVB: the value moved, sign-extended by MOVB into a register; N and Z from it, V cleared, C kept, and the
frame (R91, R92; flags and extension are decisions D2 and D11). -/
def Obligations.MoveResults : Prop :=
  (∀ (s s1 : State) (src dst : Operand) (v : Word) (l : Loc), s.Inv →
    sourceDestWord src dst s = .ok (v, l) s1 → WordReady s1 l →
    WordOutcome (.mov src dst) s s1 [src, dst] l v ⟨v.getLsbD 15, decide (v = 0#16), false, s.flagC⟩) ∧
  (∀ (s s1 : State) (src dst : Operand) (v : Byte) (l : Loc), s.Inv →
    sourceDestByte src dst s = .ok (v, l) s1 → ByteReady s1 l →
    ByteOutcome (.movb src dst) s s1 [src, dst] l v (v.signExtend 16) ⟨v.getLsbD 7, decide (v = 0#8), false, s.flagC⟩)

/-- ADD, SUB, BIC, BIS: the result in the destination, the flags of each, and the frame (R97, R99, R101, R102; the
flags are decision D2). -/
def Obligations.DoubleWordResults : Prop :=
  ∀ (s s1 s2 : State) (src dst : Operand) (v d : Word) (l : Loc), s.Inv →
    sourceDestWord src dst s = .ok (v, l) s1 → readLocWord l s1 = .ok d s2 → WordReady s2 l →
    WordOutcome (.add src dst) s s2 [src, dst] l (v + d)
      ⟨(v + d).getLsbD 15, decide (v + d = 0#16),
        v.getLsbD 15 == d.getLsbD 15 && (v + d).getLsbD 15 != v.getLsbD 15, decide (65536 ≤ v.toNat + d.toNat)⟩ ∧
    WordOutcome (.sub src dst) s s2 [src, dst] l (d - v)
      ⟨(d - v).getLsbD 15, decide (d - v = 0#16),
        v.getLsbD 15 != d.getLsbD 15 && (d - v).getLsbD 15 == v.getLsbD 15, decide (d.toNat < v.toNat)⟩ ∧
    WordOutcome (.bic src dst) s s2 [src, dst] l (~~~v &&& d)
      ⟨(~~~v &&& d).getLsbD 15, decide (~~~v &&& d = 0#16), false, s.flagC⟩ ∧
    WordOutcome (.bis src dst) s s2 [src, dst] l (v ||| d)
      ⟨(v ||| d).getLsbD 15, decide (v ||| d = 0#16), false, s.flagC⟩

/-- BICB and BISB, a register destination keeping its high byte, and the frame (R98, R100; decisions D2, D11). -/
def Obligations.DoubleByteResults : Prop :=
  ∀ (s s1 s2 : State) (src dst : Operand) (v d : Byte) (l : Loc), s.Inv →
    sourceDestByte src dst s = .ok (v, l) s1 → readLocByte l s1 = .ok d s2 → ByteReady s2 l →
    ByteOutcome (.bicb src dst) s s2 [src, dst] l (~~~v &&& d) (keptHighByte s2 l (~~~v &&& d))
      ⟨(~~~v &&& d).getLsbD 7, decide (~~~v &&& d = 0#8), false, s.flagC⟩ ∧
    ByteOutcome (.bisb src dst) s s2 [src, dst] l (v ||| d) (keptHighByte s2 l (v ||| d))
      ⟨(v ||| d).getLsbD 7, decide (v ||| d = 0#8), false, s.flagC⟩

/-- CMP, CMPB, BIT, BITB: the flags of source minus destination and of the bit-wise and; nothing is written, and the
frame (R93 to R96; which flags is decision D2). -/
def Obligations.CompareResults : Prop :=
  (∀ (s s1 s2 : State) (src dst : Operand) (v d : Word) (l : Loc), s.Inv →
    sourceDestWord src dst s = .ok (v, l) s1 → readLocWord l s1 = .ok d s2 →
    FlagOutcome (.cmp src dst) s s2 [src, dst]
      ⟨(v - d).getLsbD 15, decide (v - d = 0#16),
        v.getLsbD 15 != d.getLsbD 15 && (v - d).getLsbD 15 == d.getLsbD 15, decide (v.toNat < d.toNat)⟩ ∧
    FlagOutcome (.bit src dst) s s2 [src, dst]
      ⟨(v &&& d).getLsbD 15, decide (v &&& d = 0#16), false, s.flagC⟩) ∧
  (∀ (s s1 s2 : State) (src dst : Operand) (v d : Byte) (l : Loc), s.Inv →
    sourceDestByte src dst s = .ok (v, l) s1 → readLocByte l s1 = .ok d s2 →
    FlagOutcome (.cmpb src dst) s s2 [src, dst]
      ⟨(v - d).getLsbD 7, decide (v - d = 0#8),
        v.getLsbD 7 != d.getLsbD 7 && (v - d).getLsbD 7 == d.getLsbD 7, decide (v.toNat < d.toNat)⟩ ∧
    FlagOutcome (.bitb src dst) s s2 [src, dst]
      ⟨(v &&& d).getLsbD 7, decide (v &&& d = 0#8), false, s.flagC⟩)

/-! ## Single-operand instructions -/

/-- COM, INC, DEC, NEG, ADC, SBC: results, flags and frame (R133 to R143; flags are decision D2). -/
def Obligations.WordArithmeticResults : Prop :=
  ∀ (s s1 s2 : State) (dst : Operand) (d : Word) (l : Loc), s.Inv →
    resolve .word dst s = .ok l s1 → readLocWord l s1 = .ok d s2 → WordReady s2 l →
    let c : Word := if s.flagC then 1#16 else 0#16
    WordOutcome (.com dst) s s2 [dst] l (~~~d) ⟨(~~~d).getLsbD 15, decide (~~~d = 0#16), false, true⟩ ∧
    WordOutcome (.inc dst) s s2 [dst] l (d + 1#16)
      ⟨(d + 1#16).getLsbD 15, decide (d + 1#16 = 0#16), decide (d = 0o077777#16), s.flagC⟩ ∧
    WordOutcome (.dec dst) s s2 [dst] l (d - 1#16)
      ⟨(d - 1#16).getLsbD 15, decide (d - 1#16 = 0#16), decide (d = 0o100000#16), s.flagC⟩ ∧
    WordOutcome (.neg dst) s s2 [dst] l (~~~d + 1#16)
      ⟨(-d).getLsbD 15, decide (-d = 0#16), decide (-d = 0o100000#16), decide (-d ≠ 0#16)⟩ ∧
    WordOutcome (.adc dst) s s2 [dst] l (d + c)
      ⟨(d + c).getLsbD 15, decide (d + c = 0#16), decide (d = 0o077777#16 ∧ s.flagC = true),
        decide (d = 0o177777#16 ∧ s.flagC = true)⟩ ∧
    WordOutcome (.sbc dst) s s2 [dst] l (d - c)
      ⟨(d - c).getLsbD 15, decide (d - c = 0#16), decide (d = 0o100000#16 ∧ s.flagC = true),
        decide (d = 0#16 ∧ s.flagC = true)⟩

/-- COMB, INCB, DECB, NEGB, ADCB, SBCB: results, flags and frame (R134 to R144; decisions D2, D11). -/
def Obligations.ByteArithmeticResults : Prop :=
  ∀ (s s1 s2 : State) (dst : Operand) (d : Byte) (l : Loc), s.Inv →
    resolve .byte dst s = .ok l s1 → readLocByte l s1 = .ok d s2 → ByteReady s2 l →
    let c : Byte := if s.flagC then 1#8 else 0#8
    ByteOutcome (.comb dst) s s2 [dst] l (~~~d) (keptHighByte s2 l (~~~d))
      ⟨(~~~d).getLsbD 7, decide (~~~d = 0#8), false, true⟩ ∧
    ByteOutcome (.incb dst) s s2 [dst] l (d + 1#8) (keptHighByte s2 l (d + 1#8))
      ⟨(d + 1#8).getLsbD 7, decide (d + 1#8 = 0#8), decide (d = 0o177#8), s.flagC⟩ ∧
    ByteOutcome (.decb dst) s s2 [dst] l (d - 1#8) (keptHighByte s2 l (d - 1#8))
      ⟨(d - 1#8).getLsbD 7, decide (d - 1#8 = 0#8), decide (d = 0o200#8), s.flagC⟩ ∧
    ByteOutcome (.negb dst) s s2 [dst] l (-d) (keptHighByte s2 l (-d))
      ⟨(-d).getLsbD 7, decide (-d = 0#8), decide (-d = 0o200#8), decide (-d ≠ 0#8)⟩ ∧
    ByteOutcome (.adcb dst) s s2 [dst] l (d + c) (keptHighByte s2 l (d + c))
      ⟨(d + c).getLsbD 7, decide (d + c = 0#8), decide (d = 0o177#8 ∧ s.flagC = true),
        decide (d = 0o377#8 ∧ s.flagC = true)⟩ ∧
    ByteOutcome (.sbcb dst) s s2 [dst] l (d - c) (keptHighByte s2 l (d - c))
      ⟨(d - c).getLsbD 7, decide (d - c = 0#8), decide (d = 0o200#8 ∧ s.flagC = true),
        decide (d = 0#8 ∧ s.flagC = true)⟩

/-- SWAB, ROR, ROL, ASR, ASL: the bits as the source places them, the flags, and the frame (R130, R147, R149, R151,
R153; flags but the rotates' C are decision D2). -/
def Obligations.WordShiftResults : Prop :=
  ∀ (s s1 s2 : State) (dst : Operand) (d : Word) (l : Loc), s.Inv →
    resolve .word dst s = .ok l s1 → readLocWord l s1 = .ok d s2 → WordReady s2 l →
    let c := s.flagC
    let shifted (r : Word) (out : Bool) : Flags := ⟨r.getLsbD 15, decide (r = 0#16), r.getLsbD 15 ^^ out, out⟩
    let right (b : Bool) : Word := BitVec.ofBool b ++ d.extractLsb' 1 15
    let left (b : Bool) : Word := d.extractLsb' 0 15 ++ BitVec.ofBool b
    WordOutcome (.swab dst) s s2 [dst] l (d.extractLsb' 0 8 ++ d.extractLsb' 8 8)
      ⟨d.getLsbD 15, decide (d.extractLsb' 8 8 = 0#8), false, false⟩ ∧
    WordOutcome (.ror dst) s s2 [dst] l (right c) (shifted (right c) (d.getLsbD 0)) ∧
    WordOutcome (.rol dst) s s2 [dst] l (left c) (shifted (left c) (d.getLsbD 15)) ∧
    WordOutcome (.asr dst) s s2 [dst] l (right (d.getLsbD 15)) (shifted (right (d.getLsbD 15)) (d.getLsbD 0)) ∧
    WordOutcome (.asl dst) s s2 [dst] l (left false) (shifted (left false) (d.getLsbD 15))

/-- RORB, ROLB, ASRB, ASLB (R148, R150, R152, R154, C4; flags but the rotates' C are decision D2, D11). -/
def Obligations.ByteShiftResults : Prop :=
  ∀ (s s1 s2 : State) (dst : Operand) (d : Byte) (l : Loc), s.Inv →
    resolve .byte dst s = .ok l s1 → readLocByte l s1 = .ok d s2 → ByteReady s2 l →
    let c := s.flagC
    let shifted (r : Byte) (out : Bool) : Flags := ⟨r.getLsbD 7, decide (r = 0#8), r.getLsbD 7 ^^ out, out⟩
    let right (b : Bool) : Byte := BitVec.ofBool b ++ d.extractLsb' 1 7
    let left (b : Bool) : Byte := d.extractLsb' 0 7 ++ BitVec.ofBool b
    ByteOutcome (.rorb dst) s s2 [dst] l (right c) (keptHighByte s2 l (right c)) (shifted (right c) (d.getLsbD 0)) ∧
    ByteOutcome (.rolb dst) s s2 [dst] l (left c) (keptHighByte s2 l (left c)) (shifted (left c) (d.getLsbD 7)) ∧
    ByteOutcome (.asrb dst) s s2 [dst] l (right (d.getLsbD 7)) (keptHighByte s2 l (right (d.getLsbD 7)))
      (shifted (right (d.getLsbD 7)) (d.getLsbD 0)) ∧
    ByteOutcome (.aslb dst) s s2 [dst] l (left false) (keptHighByte s2 l (left false))
      (shifted (left false) (d.getLsbD 7))

/-- CLR, CLRB, SXT: the destination is written and not read (R38, R131, R132, R159; flags are decision D2). -/
def Obligations.ClearAndSignExtendResults : Prop :=
  (∀ (s s1 : State) (dst : Operand) (l : Loc), s.Inv → resolve .word dst s = .ok l s1 → WordReady s1 l →
    WordOutcome (.clr dst) s s1 [dst] l 0#16 ⟨false, true, false, false⟩ ∧
    WordOutcome (.sxt dst) s s1 [dst] l (if s.flagN then 0o177777#16 else 0#16)
      ⟨s.flagN, !s.flagN, false, s.flagC⟩) ∧
  (∀ (s s1 : State) (dst : Operand) (l : Loc), s.Inv → resolve .byte dst s = .ok l s1 → ByteReady s1 l →
    ByteOutcome (.clrb dst) s s1 [dst] l 0#8 (keptHighByte s1 l 0#8) ⟨false, true, false, false⟩)

/-- TST and TSTB: N and Z from the operand, V and C cleared, nothing written, and the frame (R145, R146; V and C are
decision D2). -/
def Obligations.TestResults : Prop :=
  (∀ (s s1 s2 : State) (dst : Operand) (d : Word) (l : Loc), s.Inv →
    resolve .word dst s = .ok l s1 → readLocWord l s1 = .ok d s2 →
    FlagOutcome (.tst dst) s s2 [dst] ⟨d.getLsbD 15, decide (d = 0#16), false, false⟩) ∧
  (∀ (s s1 s2 : State) (dst : Operand) (d : Byte) (l : Loc), s.Inv →
    resolve .byte dst s = .ok l s1 → readLocByte l s1 = .ok d s2 →
    FlagOutcome (.tstb dst) s s2 [dst] ⟨d.getLsbD 7, decide (d = 0#8), false, false⟩)

/-- MTPS loads the low byte of the PS but T, under `PS_MASK`, and leaves T and the high byte: the condition codes, and as
much of the priority as the mask holds; MFPS copies the low byte of the PS as it was, sign-extended into a register, and
sets N and Z from it (R158, R160; decision D26). -/
def Obligations.StatusByteMoves : Prop :=
  (∀ (s s1 s2 : State) (src : Operand) (b : Byte) (l : Loc), s.Inv →
    resolve .byte src s = .ok l s1 → readLocByte l s1 = .ok b s2 →
    let new : Byte := (b &&& 0o357#8) ||| (lowByte s.ps &&& 0o20#8)
    ∃ t, exec (.mtps src) s = .next t ∧ lowByte t.ps = new &&& lowByte s.params.psMask ∧
      t.flags = ⟨b.getLsbD 3, b.getLsbD 2, b.getLsbD 1, b.getLsbD 0⟩ ∧
      t.priority = ((b &&& lowByte s.params.psMask).extractLsb' 5 3).toNat ∧ t.flagT = s.flagT ∧
      highByte t.ps = highByte s.ps ∧
      SameMemory s t ∧ (∀ q, t.reg q = s2.reg q) ∧ SameRegsBut s t none [src] ∧ SameControl s t) ∧
  (∀ (s s1 : State) (dst : Operand) (l : Loc), s.Inv → resolve .byte dst s = .ok l s1 → ByteReady s1 l →
    ByteOutcome (.mfps dst) s s1 [dst] l (lowByte s.ps) ((lowByte s.ps).signExtend 16)
      ⟨s.ps.getLsbD 7, decide (lowByte s.ps = 0#8), false, s.flagC⟩)

/-- MARK: SP past the parameters, the PC from R5, R5 popped, no flag changed; where that SP is odd or nothing answers
there, the pop traps with SP and the PC already loaded and R5 kept (R157, R35, R253, decision D25; entry into the traps
is R236, decisions D4, D5 and D16, log entries 1 and 31). -/
def Obligations.MarkResult : Prop :=
  ∀ (s : State) (nn : BitVec 6),
    let a := s.pc + 2#16 * nn.setWidth 16
    let u := (s.setReg .r6 a).setReg .r7 (s.reg .r5)
    (∀ v s1, readWord a s = .ok v s1 →
      ∃ t, exec (.mark nn) s = .next t ∧ t.sp = a + 2#16 ∧ t.pc = s.reg .r5 ∧
        t.reg .r5 = v ∧ (∀ q, q ≠ .r5 → q ≠ .r6 → q ≠ .r7 → t.reg q = s.reg q) ∧ t.ps = s.ps ∧ SameMemory s t ∧
        SameControl s t) ∧
    (isOdd a = true → Traps (.mark nn) s (.oddAddress a) u) ∧
    (isOdd a = false → region s.params a 2 = .absent → Traps (.mark nn) s (.busTimeout a) u.busTurn)

/-- The laws of R156: rotating through C 17 (9) times restores the operand and C; ASR is floor division by 2; ASL is
multiplication by 2 with V its signed overflow; NEG of the most negative value returns it with V set; for words and bytes;
and INC and DEC keep C. -/
def Obligations.ShiftLaws : Prop :=
  (∀ (d : Word) (f : Flags),
    ((fun p => rorOp p.1 p.2)^[17] (d, f)).1 = d ∧ ((fun p => rorOp p.1 p.2)^[17] (d, f)).2.c = f.c ∧
    ((fun p => rolOp p.1 p.2)^[17] (d, f)).1 = d ∧ ((fun p => rolOp p.1 p.2)^[17] (d, f)).2.c = f.c) ∧
  (∀ (d : Byte) (f : Flags),
    ((fun p => rorOp p.1 p.2)^[9] (d, f)).1 = d ∧ ((fun p => rorOp p.1 p.2)^[9] (d, f)).2.c = f.c ∧
    ((fun p => rolOp p.1 p.2)^[9] (d, f)).1 = d ∧ ((fun p => rolOp p.1 p.2)^[9] (d, f)).2.c = f.c) ∧
  (∀ (d : Word) (f : Flags),
    (asrOp d f).1.toInt = d.toInt / 2 ∧ (aslOp d f).1 = 2#16 * d ∧
    ((aslOp d f).2.v = true ↔ 2 * d.toInt < -32768 ∨ 32767 < 2 * d.toInt)) ∧
  (∀ (d : Byte) (f : Flags),
    (asrOp d f).1.toInt = d.toInt / 2 ∧ (aslOp d f).1 = 2#8 * d ∧
    ((aslOp d f).2.v = true ↔ 2 * d.toInt < -128 ∨ 127 < 2 * d.toInt)) ∧
  (∀ f : Flags, (negOp 0o100000#16 f).1 = 0o100000#16 ∧ (negOp 0o100000#16 f).2.v = true ∧
    (negOp 0o200#8 f).1 = 0o200#8 ∧ (negOp 0o200#8 f).2.v = true) ∧
  (∀ (d : Word) (b : Byte) (f : Flags), (incOp d f).2.c = f.c ∧ (decOp d f).2.c = f.c ∧ (incOp b f).2.c = f.c ∧
    (decOp b f).2.c = f.c)

/-! ## Branches and condition codes -/

/-- The seven branches with bit 15 = 0: the encoding, the test, the target, and nothing but the PC changed (R171 to
R178). -/
def Obligations.BranchesWithBitClear : Prop :=
  ∀ (s : State) (off8 : BitVec 8),
    let taken := s.setReg .r7 (s.pc + 2#16 * off8.signExtend 16)
    decodeWord (0o000400#16 + off8.setWidth 16) = .br off8 ∧ exec (.br off8) s = .next taken ∧
    decodeWord (0o001000#16 + off8.setWidth 16) = .bne off8 ∧
      exec (.bne off8) s = .next (if s.flagZ = false then taken else s) ∧
    decodeWord (0o001400#16 + off8.setWidth 16) = .beq off8 ∧
      exec (.beq off8) s = .next (if s.flagZ = true then taken else s) ∧
    decodeWord (0o002000#16 + off8.setWidth 16) = .bge off8 ∧
      exec (.bge off8) s = .next (if s.flagN = s.flagV then taken else s) ∧
    decodeWord (0o002400#16 + off8.setWidth 16) = .blt off8 ∧
      exec (.blt off8) s = .next (if s.flagN ≠ s.flagV then taken else s) ∧
    decodeWord (0o003000#16 + off8.setWidth 16) = .bgt off8 ∧
      exec (.bgt off8) s = .next (if s.flagZ = false ∧ s.flagN = s.flagV then taken else s) ∧
    decodeWord (0o003400#16 + off8.setWidth 16) = .ble off8 ∧
      exec (.ble off8) s = .next (if s.flagZ = true ∨ s.flagN ≠ s.flagV then taken else s)

/-- The eight branches with bit 15 = 1 and the two second names (R171, R179 to R186). -/
def Obligations.BranchesWithBitSet : Prop :=
  ∀ (s : State) (off8 : BitVec 8),
    let taken := s.setReg .r7 (s.pc + 2#16 * off8.signExtend 16)
    decodeWord (0o100000#16 + off8.setWidth 16) = .bpl off8 ∧
      exec (.bpl off8) s = .next (if s.flagN = false then taken else s) ∧
    decodeWord (0o100400#16 + off8.setWidth 16) = .bmi off8 ∧
      exec (.bmi off8) s = .next (if s.flagN = true then taken else s) ∧
    decodeWord (0o101000#16 + off8.setWidth 16) = .bhi off8 ∧
      exec (.bhi off8) s = .next (if s.flagC = false ∧ s.flagZ = false then taken else s) ∧
    decodeWord (0o101400#16 + off8.setWidth 16) = .blos off8 ∧
      exec (.blos off8) s = .next (if s.flagC = true ∨ s.flagZ = true then taken else s) ∧
    decodeWord (0o102000#16 + off8.setWidth 16) = .bvc off8 ∧
      exec (.bvc off8) s = .next (if s.flagV = false then taken else s) ∧
    decodeWord (0o102400#16 + off8.setWidth 16) = .bvs off8 ∧
      exec (.bvs off8) s = .next (if s.flagV = true then taken else s) ∧
    decodeWord (0o103000#16 + off8.setWidth 16) = .bcc off8 ∧
      exec (.bcc off8) s = .next (if s.flagC = false then taken else s) ∧
    exec (.bhis off8) s = .next (if s.flagC = false then taken else s) ∧
    decodeWord (0o103400#16 + off8.setWidth 16) = .bcs off8 ∧
      exec (.bcs off8) s = .next (if s.flagC = true then taken else s) ∧
    exec (.blo off8) s = .next (if s.flagC = true then taken else s)

/-- After a CMP that completes, the branches compare its source with its destination: signed by BLT, BGE, BGT, BLE,
unsigned by BLO, BHIS, BHI, BLOS, also where the subtraction overflows (R187, on decision D2). -/
def Obligations.CompareThenBranch : Prop :=
  ∀ (s s1 s2 : State) (src dst : Operand) (v d : Word) (l : Loc), s.Inv →
    sourceDestWord src dst s = .ok (v, l) s1 → readLocWord l s1 = .ok d s2 →
    ∃ t, exec (.cmp src dst) s = .next t ∧ ∀ off8 : BitVec 8,
      let taken := t.setReg .r7 (t.pc + 2#16 * off8.signExtend 16)
      exec (.beq off8) t = .next (if v = d then taken else t) ∧
      exec (.bne off8) t = .next (if v ≠ d then taken else t) ∧
      exec (.blt off8) t = .next (if v.toInt < d.toInt then taken else t) ∧
      exec (.bge off8) t = .next (if d.toInt ≤ v.toInt then taken else t) ∧
      exec (.bgt off8) t = .next (if d.toInt < v.toInt then taken else t) ∧
      exec (.ble off8) t = .next (if v.toInt ≤ d.toInt then taken else t) ∧
      exec (.blo off8) t = .next (if v.toNat < d.toNat then taken else t) ∧
      exec (.bhis off8) t = .next (if d.toNat ≤ v.toNat then taken else t) ∧
      exec (.bhi off8) t = .next (if d.toNat < v.toNat then taken else t) ∧
      exec (.blos off8) t = .next (if v.toNat ≤ d.toNat then taken else t)

/-- CLx and SEx clear and set exactly the flags of the mask and change nothing else; each named word is the word of CLx or
SEx at one mask, means the same and has its own effect; the two NOP words change nothing but the PC, by their fetch
(R191 to R194). -/
def Obligations.ConditionCodeResults : Prop :=
  ∀ s : State, s.Inv →
    (∀ m : BitVec 4, decodeWord (0o000240#16 + m.setWidth 16) = .clx m ∧
      ∃ t, exec (.clx m) s = .next t ∧
        t.flags = ⟨s.flagN && !m.getLsbD 3, s.flagZ && !m.getLsbD 2, s.flagV && !m.getLsbD 1, s.flagC && !m.getLsbD 0⟩ ∧
        SamePsButFlags s t ∧ t.regs = s.regs ∧ t.mem = s.mem ∧ SameControl s t) ∧
    (∀ m : BitVec 4, decodeWord (0o000260#16 + m.setWidth 16) = .sex m ∧
      ∃ t, exec (.sex m) s = .next t ∧
        t.flags = ⟨s.flagN || m.getLsbD 3, s.flagZ || m.getLsbD 2, s.flagV || m.getLsbD 1, s.flagC || m.getLsbD 0⟩ ∧
        SamePsButFlags s t ∧ t.regs = s.regs ∧ t.mem = s.mem ∧ SameControl s t) ∧
    (∀ p ∈ [(Instr.nop240, Instr.clx 0b0000#4, 0o240#16, s.flags),
        (.clc, .clx 0b0001#4, 0o241#16, ⟨s.flagN, s.flagZ, s.flagV, false⟩),
        (.clv, .clx 0b0010#4, 0o242#16, ⟨s.flagN, s.flagZ, false, s.flagC⟩),
        (.clz, .clx 0b0100#4, 0o244#16, ⟨s.flagN, false, s.flagV, s.flagC⟩),
        (.cln, .clx 0b1000#4, 0o250#16, ⟨false, s.flagZ, s.flagV, s.flagC⟩),
        (.ccc, .clx 0b1111#4, 0o257#16, ⟨false, false, false, false⟩),
        (.nop260, .sex 0b0000#4, 0o260#16, s.flags),
        (.sec, .sex 0b0001#4, 0o261#16, ⟨s.flagN, s.flagZ, s.flagV, true⟩),
        (.sev, .sex 0b0010#4, 0o262#16, ⟨s.flagN, s.flagZ, true, s.flagC⟩),
        (.sez, .sex 0b0100#4, 0o264#16, ⟨s.flagN, true, s.flagV, s.flagC⟩),
        (.sen, .sex 0b1000#4, 0o270#16, ⟨true, s.flagZ, s.flagV, s.flagC⟩),
        (.scc, .sex 0b1111#4, 0o277#16, ⟨true, true, true, true⟩)],
      encodeWord p.1 = p.2.2.1 ∧ decodeWord p.2.2.1 = p.2.1 ∧ exec p.1 s = exec p.2.1 s ∧
      ∃ t, exec p.1 s = .next t ∧ t.flags = p.2.2.2 ∧ SamePsButFlags s t ∧ t.regs = s.regs ∧ t.mem = s.mem ∧
        SameControl s t) ∧
    exec .nop240 s = .next s ∧ exec .nop260 s = .next s ∧
    (∀ w ∈ [0o240#16, 0o260#16], s.run = .running → isOdd s.pc = false → region s.params s.pc 2 = .ram →
      HoldsWord s.busTurn s.pc w → step s = settle (.next ({ s.busTurn with traceArmed := s.flagT }.setReg .r7 (s.pc + 2#16))))

/-! ## Subroutines and jumps -/

/-- JSR: the destination address is formed first, the linkage register pushed, then loaded with the address after the
whole instruction, and the jump taken; no flag changes. An odd target traps with nothing pushed, or is rounded down, by
`ODD_JUMP` (that the model faults under neither value is log entry 35). With SP odd, or nothing answering below it, the
push traps with SP already lowered, the linkage register and the PC not yet loaded (R200, R202, R35, R253, decisions D6,
D36; entry into the traps is R236, decisions D4, D5 and D16, log entries 1 and 31). -/
def Obligations.JsrResult : Prop :=
  ∀ (s s1 : State) (reg : Reg) (dst : Operand) (a : Word), s.Inv → dst.mode ≠ .register → reg ≠ .r6 →
    resolve .word dst s = .ok (.mem a) s1 →
    (isOdd a = true → s.params.oddJump = .trap → Traps (.jsr reg dst) s (.oddAddress a) s1) ∧
    ((isOdd a = false ∨ s.params.oddJump = .roundDown) →
      let u := s1.setReg .r6 (s1.sp - 2#16)
      (WordReady s1 (.mem (s1.sp - 2#16)) →
        ∃ t, exec (.jsr reg dst) s = .next t ∧ t.pc = (if isOdd a = true then a - 1#16 else a) ∧ t.sp = s1.sp - 2#16 ∧
          (reg ≠ .r7 → t.reg reg = s1.pc) ∧ WordStored s t (.mem (s1.sp - 2#16)) (s1.reg reg) ∧
          (∀ q, q ≠ .r6 → q ≠ .r7 → q ≠ reg → t.reg q = s1.reg q ∧ (¬ dst.Steps q → t.reg q = s.reg q)) ∧
          t.ps = s.ps ∧ SameControl s t) ∧
      (isOdd s1.sp = true → Traps (.jsr reg dst) s (.oddAddress (s1.sp - 2#16)) u) ∧
      (isOdd s1.sp = false → region s.params (s1.sp - 2#16) 2 = .absent →
        Traps (.jsr reg dst) s (.busTimeout (s1.sp - 2#16)) u.busTurn))

/-- RTS: the PC from the linkage register, which takes the popped word; R7 pops the PC itself; an odd SP or absent
stack word traps, with the PC already loaded; R6 is refused (R201; entry into the traps is R236, decisions D4, D5 and D16,
log entries 1 and 31). -/
def Obligations.RtsResult : Prop :=
  ∀ (s : State) (reg : Reg),
    encodeWord (.rts reg) = 0o000200#16 + reg.bits.setWidth 16 ∧
    (reg = .r6 → exec (.rts reg) s = .refused (.linkageRegisterSp "RTS")) ∧
    (reg ≠ .r6 →
      (∀ v s1, readWord s.sp s = .ok v s1 →
        ∃ t, exec (.rts reg) s = .next t ∧ (reg = .r7 → t.pc = v) ∧ (reg ≠ .r7 → t.pc = s.reg reg ∧ t.reg reg = v) ∧
          t.sp = s.sp + 2#16 ∧ (∀ q, q ≠ .r6 → q ≠ .r7 → q ≠ reg → t.reg q = s.reg q) ∧ t.ps = s.ps ∧
          SameMemory s t ∧ SameControl s t) ∧
      (isOdd s.sp = true →
        exec (.rts reg) s =
          trapEntry s.params.vectors.oddAddress { s.setReg .r7 (s.reg reg) with traceArmed := false }) ∧
      (isOdd s.sp = false → region s.params s.sp 2 = .absent →
        exec (.rts reg) s =
          trapEntry s.params.vectors.busTimeout { (s.setReg .r7 (s.reg reg)).busTurn with traceArmed := false }))

/-- RTS undoes JSR: returning from a subroutine right after the call, when no device stores to the stack word, restores the
linkage register, SP and the PC after the call, and of memory only the stack word differs (R200, R201, R209). -/
def Obligations.JsrThenRts : Prop :=
  ∀ (s s1 t : State) (reg : Reg) (dst : Operand) (a : Word), s.Inv → dst.mode ≠ .register → reg ≠ .r6 →
    resolve .word dst s = .ok (.mem a) s1 → isOdd a = false → isOdd (s1.sp - 2#16) = false →
    region s1.params (s1.sp - 2#16) 2 = .ram → (∀ k < 2, ¬ s.DeviceStoresTo ((s1.sp - 2#16).toNat + k)) →
    exec (.jsr reg dst) s = .next t →
    ∃ u, exec (.rts reg) t = .next u ∧ u.pc = s1.pc ∧ u.sp = s1.sp ∧ (∀ q, u.reg q = s1.reg q) ∧ u.ps = s.ps ∧
      SameMemoryBut s u (s1.sp - 2#16) 2 ∧ SameControl s u

/-- JMP: an even address goes to the PC and nothing else changes but what the field steps; an odd one traps or is
rounded down by `ODD_JUMP` (R202, decision D6; that the model faults under neither value is log entry 35; entry into the
trap is R236, decisions D4 and D5, log entries 1 and 31). -/
def Obligations.JmpResult : Prop :=
  ∀ (s s1 : State) (dst : Operand) (a : Word), dst.mode ≠ .register → resolve .word dst s = .ok (.mem a) s1 →
    (isOdd a = false → ∃ t, exec (.jmp dst) s = .next t ∧ t.pc = a ∧ (∀ q, q ≠ .r7 → t.reg q = s1.reg q) ∧
      SameRegsBut s t none [dst] ∧ t.ps = s.ps ∧ SameMemory s t ∧ SameControl s t) ∧
    (isOdd a = true → s.params.oddJump = .trap →
      exec (.jmp dst) s = trapEntry s.params.vectors.oddAddress { s1 with traceArmed := false }) ∧
    (isOdd a = true → s.params.oddJump = .roundDown →
      exec (.jmp dst) s = .next (s1.setReg .r7 (a - 1#16)))

/-- JMP and JSR with a register destination are illegal and trap with nothing pushed and nothing stepped; JSR with R6 as
the linkage register is otherwise refused (R208, R200, R234; decision D8, log entry 18; entry into the trap is R236,
decision D4, log entries 1 and 31). -/
def Obligations.IllegalJumpTraps : Prop :=
  ∀ (s : State) (reg r : Reg) (dst : Operand),
    exec (.jmp ⟨.register, r⟩) s = trapEntry s.params.vectors.illegalJump { s with traceArmed := false } ∧
    exec (.jsr reg ⟨.register, r⟩) s = trapEntry s.params.vectors.illegalJump { s with traceArmed := false } ∧
    (dst.mode ≠ .register → exec (.jsr .r6 dst) s = .refused (.linkageRegisterSp "JSR"))

/-- HALT halts and WAIT waits; neither changes anything else (R203, R204; decisions D18 and D19). RESET withdraws the
devices' requests and changes no register, no flag and no memory (R207, decision D20); that it keeps all else besides
(the devices' transfers still to come, a power-fail event, the console's HALT request) is the model's reading, log
entry 32. -/
def Obligations.OperateResults : Prop :=
  ∀ s : State, exec .halt s = .next { s with run := .halted } ∧ exec .wait s = .next { s with run := .waiting } ∧
    exec .reset s = .next { s with pending := [] }

/-! ## Traps and returns -/

/-- Trap entry (R236, decision D4): the vector's words become the PC and the masked PS, the old PS and PC are on the
stack, and the rest is kept. Where the words pushed would overlap the vector, the model refuses, as R236 says; that an
overlap is an equality of word addresses is log entry 17. -/
def Obligations.TrapEntryResult : Prop :=
  ∀ (s : State) (v newPc newPs : Word), s.Inv →
    (TrapReady s v newPc newPs →
      ∃ t, trapEntry v s = .next t ∧ EntersTrap s t newPc newPs ∧ t.pending = s.pending ∧
        t.traceArmed = s.traceArmed) ∧
    (VectorReady s v newPc newPs →
      (s.sp - 2#16 = v ∨ s.sp - 2#16 = v + 2#16 ∨ s.sp - 4#16 = v ∨ s.sp - 4#16 = v + 2#16) →
      trapEntry v s = .refused .stackOverlapsVector)

/-- A trap inside trap entry is a double fault (R241, decision D28): the machine halts with the fault marker set, whether
the vector is odd, or either of its words unanswered, or SP odd, or the word of the first or the second push unanswered.
The PC, PS and R0 to R5 as they were, SP and memory as the pushes made so far left them, and that an odd vector is one
too, are log entry 16. -/
def Obligations.DoubleFaultHalts : Prop :=
  ∀ (s : State) (v newPc newPs : Word), s.params.wf = true →
    (VectorReady s v newPc newPs →
      (isOdd s.sp = true →
        ∃ t, trapEntry v s = .next t ∧ DoubleFaulted s t (s.sp - 2#16) ∧ SameMemory s t) ∧
      (isOdd s.sp = false → stackOverlapsVector v s.sp = false → region s.params (s.sp - 2#16) 2 = .absent →
        ∃ t, trapEntry v s = .next t ∧ DoubleFaulted s t (s.sp - 2#16) ∧ SameMemory s t) ∧
      (isOdd s.sp = false → stackOverlapsVector v s.sp = false → region s.params (s.sp - 2#16) 2 ≠ .absent →
        region s.params (s.sp - 4#16) 2 = .absent →
        ∃ t, trapEntry v s = .next t ∧ DoubleFaulted s t (s.sp - 4#16) ∧
          if region s.params (s.sp - 2#16) 2 = .ram then
            KeepsWord s t (s.sp - 2#16) s.ps ∧ SameMemoryBut s t (s.sp - 2#16) 2
          else SameMemory s t)) ∧
    (isOdd v = true → trapEntry v s = .next s.afterDoubleFault) ∧
    (isOdd v = false → region s.params v 2 = .absent → trapEntry v s = .next s.busTurn.afterDoubleFault) ∧
    (isOdd v = false → region s.params v 2 = .ram → HoldsWord s.busTurn v newPc →
      region s.params (v + 2#16) 2 = .absent → trapEntry v s = .next s.busTurn.busTurn.afterDoubleFault)

/-- RTI: the PC and then the masked PS are popped, and a T bit popped, or set before, arms the trace trap (R205, R240,
R243; decisions D4, D23, log entry 13). With SP odd or the first word unanswered the first pop traps with nothing
changed; with the second word unanswered the second traps with the PC loaded, SP past the first word and the PS as it was
(R35, R253; entry into the traps is R236, decisions D4, D5 and D16, log entries 1 and 31). -/
def Obligations.RtiResult : Prop :=
  ∀ s : State,
    (∀ s1 s2 newPc newPs, readWord s.sp s = .ok newPc s1 → readWord (s.sp + 2#16) s1 = .ok newPs s2 →
      ∃ t, exec .rti s = .next t ∧ t.pc = newPc ∧ t.ps = newPs &&& s.params.psMask ∧ t.sp = s.sp + 4#16 ∧
        (∀ q, q ≠ .r6 → q ≠ .r7 → t.reg q = s.reg q) ∧ SameMemory s t ∧ t.run = s.run ∧ t.pending = s.pending ∧
        t.traceArmed = (s.traceArmed || t.flagT) ∧ t.powerFail = s.powerFail ∧ t.haltRequest = s.haltRequest ∧
        t.doubleFault = s.doubleFault ∧ t.params = s.params) ∧
    PopsTrap .rti s

/-- RTI undoes trap entry: executed at the handler's first instruction, when no device stores to the stack words, it
restores every register, the PC, SP and the PS of before the trap, and of memory only the two stack words differ (R236,
R240; decision D4). -/
def Obligations.TrapThenReturn : Prop :=
  ∀ (s t : State) (v newPc newPs : Word), s.Inv → TrapReady s v newPc newPs →
    (∀ k < 4, ¬ s.DeviceStoresTo ((s.sp - 4#16).toNat + k)) → trapEntry v s = .next t →
    ∃ u, exec .rti t = .next u ∧ (∀ q, u.reg q = s.reg q) ∧ u.ps = s.ps ∧ SameMemoryBut s u (s.sp - 4#16) 4 ∧
      u.run = .running ∧ u.pending = s.pending ∧ u.params = s.params

/-- Every unused word, and every unlisted word without the supplement, takes the reserved-instruction trap; the words
0o000230 to 0o000237 take it with the supplement too (R60, R220, R223, R234; decision D7). The trap is entered by R236,
decision D4, which is log entry 1; that `traceArmed` is cleared is log entry 31. -/
def Obligations.ReservedWordsTrap : Prop :=
  ∀ (s : State) (newPc newPs : Word), s.Inv → TrapReady s s.params.vectors.reservedInstruction newPc newPs →
    (∀ (x3 : BitVec 3) (x4 : BitVec 4) (x5 : BitVec 5) (x6 : BitVec 6) (x7 : BitVec 7) (x8 : BitVec 8) (x9 : BitVec 9),
      ∀ i ∈ [Instr.unused000007, .unused000010 x3, .unused000020 x4, .unused000040 x5, .unused000210 x3,
        .unused000220 x3, .unlisted00023x x3, .unused006500 x6, .unused006600 x6, .unused007000 x9, .unused075040 x5,
        .unused075100 x6, .unused075200 x7, .unused075400 x8, .unused076000 x9, .unused106500 x6, .unused106600 x6,
        .unused107000 x9],
        TrapOutcome i s newPc newPs) ∧
    (s.params.bptWord = .word4 → TrapOutcome .unlisted000003 s newPc newPs) ∧
    (s.params.supplementPresent = false → ∀ code,
      TrapOutcome .unlisted000006 s newPc newPs ∧ TrapOutcome (.unlisted1040xx code) s newPc newPs ∧
      TrapOutcome (.unlisted1044xx code) s newPc newPs ∧
      (s.params.bptWord = .word3 → TrapOutcome .bpt s newPc newPs))

/-- BPT takes the breakpoint trap, by `BPT_WORD`; with the supplement EMT, TRAP and IOT take theirs, each through its own
vector (R206, R221, R224, R235; decisions D10, D35). The trap is entered by R236, decision D4, which is log entry 1; that
`traceArmed` is cleared is log entry 31. -/
def Obligations.SoftwareTraps : Prop :=
  ∀ (s : State) (newPc newPs : Word), s.Inv →
    (TrapReady s s.params.vectors.breakpoint newPc newPs →
      (s.params.bptWord = .word4 → TrapOutcome .bpt s newPc newPs) ∧
      (s.params.bptWord = .word3 → TrapOutcome .unlisted000003 s newPc newPs)) ∧
    (s.params.supplementPresent = true → ∀ code,
      (TrapReady s s.params.vectors.emt newPc newPs → TrapOutcome (.unlisted1040xx code) s newPc newPs) ∧
      (TrapReady s s.params.vectors.trap newPc newPs → TrapOutcome (.unlisted1044xx code) s newPc newPs) ∧
      (TrapReady s s.params.vectors.iot newPc newPs → s.params.bptWord = .word3 → TrapOutcome .bpt s newPc newPs))

/-- RTT, the word 0o000006 with the supplement: as RTI, but a T bit it pops does not trap before the next instruction
(R222, R243; decision D35, log entry 13). Its pops trap as RTI's do (R35, R253; entry into the traps is R236, decisions
D4, D5 and D16, log entries 1 and 31). -/
def Obligations.RttResult : Prop :=
  ∀ s : State, s.params.supplementPresent = true →
    (∀ s1 s2 newPc newPs, readWord s.sp s = .ok newPc s1 → readWord (s.sp + 2#16) s1 = .ok newPs s2 →
      ∃ t, exec .unlisted000006 s = .next t ∧ t.pc = newPc ∧ t.ps = newPs &&& s.params.psMask ∧ t.sp = s.sp + 4#16 ∧
        (∀ q, q ≠ .r6 → q ≠ .r7 → t.reg q = s.reg q) ∧ SameMemory s t ∧ t.run = s.run ∧ t.pending = s.pending ∧
        (t.flagT = true → t.traceArmed = false) ∧ (t.flagT = false → t.traceArmed = s.traceArmed) ∧
        t.powerFail = s.powerFail ∧ t.haltRequest = s.haltRequest ∧ t.doubleFault = s.doubleFault ∧
        t.params = s.params) ∧
    PopsTrap .unlisted000006 s

/-! ## The boundary -/

/-- The request accepted is a pending one above the priority with no higher one pending, and one is accepted exactly when
some request is above the priority (R245; decision D22). -/
def Obligations.RequestChosen : Prop :=
  ∀ s : State,
    (∀ r n, chooseRequest s = some (r, n) →
      r ∈ s.pending ∧ s.priority < r.level.val ∧ ∀ q ∈ s.pending, q.level.val ≤ r.level.val) ∧
    (chooseRequest s = none ↔ ∀ q ∈ s.pending, q.level.val ≤ s.priority)

/-- Of any number of requests, the one chosen is taken at the boundary through its vector and removed from `pending`; the
others are then looked at again before the handler's first instruction, and none is taken when none is above the new
priority; and it ends a wait. With none above the priority, none is taken and a waiting machine waits (R204, R242, R245;
decisions D19, D22; entry into the handler is R236, decision D4, log entry 1). That a machine that waits for ever is a
fault is the model's choice (log entry 15). -/
def Obligations.InterruptTaken : Prop :=
  ∀ (s : State) (r : Request) (drawn : Nat) (newPc newPs : Word), s.Inv → s.traceArmed = false → s.powerFail = false →
    s.haltRequest = false →
    let s1 : State := { s with pending := s.pending.filter fun q => decide (q ≠ r), draws := s.draws + drawn }
    (chooseRequest s = some (r, drawn) → s.run ≠ .halted → TrapReady s r.vector newPc newPs →
      ∃ t, EntersTrap s1 t newPc newPs ∧ t.pending = s1.pending ∧ r ∉ t.pending ∧
        settle (.next s) = settle (.next t) ∧
        ((∀ q ∈ s1.pending, q.level.val ≤ t.priority) → settle (.next s) = .next t) ∧
        (s.run = .waiting → step s = settle (.next t))) ∧
    ((∀ q ∈ s.pending, q.level.val ≤ s.priority) →
      settle (.next s) = .next s ∧ (s.run = .waiting → step s = .fault .waitsForever))

/-- The events of the boundary and their order (R242, R243, R233; decisions D22, D23, D30, log entries 12 and 24). The
trace trap of an instruction that began with T = 1 comes first, also after a WAIT, whose wait is then not entered; then a
power-fail event, through its vector; then a HALT request from the console, which halts the machine, interrupts pending
or not; then the request chosen. After each entry the boundary goes on from the state it left, with what is still
pending, before the handler's first instruction; entry into a handler is R236, decision D4, log entry 1. -/
def Obligations.BoundaryEventsTaken : Prop :=
  ∀ (s : State) (newPc newPs : Word), s.run ≠ .halted →
    (s.traceArmed = true →
      settle (.next s) =
        onNext (trapEntry s.params.vectors.trace { s with traceArmed := false }) fun t => settle (.next t)) ∧
    (s.traceArmed = false → s.powerFail = true →
      settle (.next s) =
        onNext (trapEntry s.params.vectors.powerFail { s with powerFail := false }) fun t => settle (.next t)) ∧
    (s.traceArmed = false → s.powerFail = false → s.haltRequest = true →
      settle (.next s) = .next { s with run := .halted, haltRequest := false }) ∧
    (s.traceArmed = false → s.powerFail = false → s.haltRequest = false → ∀ r drawn,
      chooseRequest s = some (r, drawn) →
      settle (.next s) =
        onNext (trapEntry r.vector
          { s with pending := s.pending.filter fun q => decide (q ≠ r), draws := s.draws + drawn })
          fun t => settle (.next t)) ∧
    (s.Inv → s.traceArmed = true → s.powerFail = false → s.haltRequest = false → s.pending = [] →
      TrapReady s s.params.vectors.trace newPc newPs →
      ∃ t, settle (.next s) = .next t ∧ EntersTrap s t newPc newPs ∧ t.traceArmed = false) ∧
    (s.Inv → s.traceArmed = false → s.powerFail = true → s.haltRequest = false → s.pending = [] →
      TrapReady s s.params.vectors.powerFail newPc newPs →
      ∃ t, settle (.next s) = .next t ∧ EntersTrap { s with powerFail := false } t newPc newPs)

/-! ## The Extended Instruction Set, under `EIS_PRESENT` (supplement from general knowledge, R113, decision D9) -/

/-- MUL: the exact signed product in the register pair, or its low word in an odd register; N, Z, C of the product, V
cleared (R114; registers R6 and R7 are log entry 30). -/
def Obligations.MulResult : Prop :=
  ∀ (s s1 : State) (reg : Reg) (src : Operand) (v : Word), s.Inv → s.params.eisPresent = true →
    readOperandWord src s = .ok v s1 →
    let p := (s1.reg reg).toInt * v.toInt
    ∃ t, exec (.mul reg src) s = .next t ∧
      (oddPartner reg ≠ reg → (t.reg reg ++ t.reg (oddPartner reg)).toInt = p) ∧
      t.reg (oddPartner reg) = BitVec.ofInt 16 p ∧
      t.flags = ⟨decide (p < 0), decide (p = 0), false, decide (p < -32768 ∨ 32768 ≤ p)⟩ ∧
      (∀ q, q ≠ reg → q ≠ oddPartner reg → t.reg q = s1.reg q) ∧ SameMemory s t ∧ SamePsButFlags s t ∧ SameControl s t

/-- DIV: quotient and remainder with the remainder smaller than the divisor and of the dividend's sign; division by zero
and overflow set V, and C for zero, and leave everything but the pair and the condition codes as it was; an odd
register is refused (R115; the unspecified values are free, log entry 10; the pair R6, R7 is log entry 30). -/
def Obligations.DivResult : Prop :=
  ∀ (s s1 : State) (reg : Reg) (src : Operand) (v : Word), s.Inv → s.params.eisPresent = true →
    (oddPartner reg = reg → exec (.div reg src) s = .refused (.oddRegisterPair "DIV")) ∧
    (oddPartner reg ≠ reg → readOperandWord src s = .ok v s1 →
      let dividend := (s1.reg reg ++ s1.reg (oddPartner reg)).toInt
      ∃ t, exec (.div reg src) s = .next t ∧
        (∀ q, q ≠ reg → q ≠ oddPartner reg → t.reg q = s1.reg q) ∧ SameMemory s t ∧ SamePsButFlags s t ∧
        SameControl s t ∧
        (v = 0#16 → t.flagV = true ∧ t.flagC = true) ∧
        (v ≠ 0#16 → (dividend.tdiv v.toInt < -32768 ∨ 32767 < dividend.tdiv v.toInt) →
          t.flagV = true ∧ t.flagC = false) ∧
        (v ≠ 0#16 → -32768 ≤ dividend.tdiv v.toInt → dividend.tdiv v.toInt ≤ 32767 →
          dividend = (t.reg reg).toInt * v.toInt + (t.reg (oddPartner reg)).toInt ∧
          (t.reg (oddPartner reg)).toInt.natAbs < v.toInt.natAbs ∧
          ((t.reg (oddPartner reg)).toInt < 0 → dividend < 0) ∧ (0 < (t.reg (oddPartner reg)).toInt → 0 < dividend) ∧
          t.flags = ⟨decide ((t.reg reg).toInt < 0), decide ((t.reg reg).toInt = 0), false, false⟩))

/-- ASH and ASHC by a count of -32 to 31: a left shift multiplies by 2^k with V its signed overflow and C the last bit
out; a right shift divides by 2^-k, rounding down, with C the last bit out and V cleared; a count of 0 keeps the value
and clears both; an odd register pair is refused (R116, R117; R6 and R7 as the registers shifted are log entry 30). -/
def Obligations.ArithmeticShiftResults : Prop :=
  ∀ (s s1 : State) (reg : Reg) (src : Operand) (v : Word), s.Inv → s.params.eisPresent = true →
    readOperandWord src s = .ok v s1 →
    let k := (v.extractLsb' 0 6).toInt
    (let x := s1.reg reg
     ∃ t, exec (.ash reg src) s = .next t ∧ (∀ q, q ≠ reg → t.reg q = s1.reg q) ∧ SameMemory s t ∧
      SamePsButFlags s t ∧ SameControl s t ∧ t.flagN = (t.reg reg).msb ∧ t.flagZ = decide (t.reg reg = 0#16) ∧
      (0 ≤ k → t.reg reg = BitVec.ofInt 16 (x.toInt * 2 ^ k.toNat) ∧
        (t.flagV = true ↔ x.toInt * 2 ^ k.toNat < -2 ^ 15 ∨ 2 ^ 15 ≤ x.toInt * 2 ^ k.toNat) ∧
        t.flagC = (decide (0 < k ∧ k ≤ 16) && x.getLsbD (16 - k.toNat))) ∧
      (k < 0 → (t.reg reg).toInt = x.toInt / 2 ^ (-k).toNat ∧ t.flagV = false ∧
        t.flagC = if (-k).toNat ≤ 16 then x.getLsbD ((-k).toNat - 1) else x.getLsbD 15)) ∧
    (oddPartner reg = reg → exec (.ashc reg src) s = .refused (.oddRegisterPair "ASHC")) ∧
    (oddPartner reg ≠ reg →
      let x := s1.reg reg ++ s1.reg (oddPartner reg)
      ∃ t, exec (.ashc reg src) s = .next t ∧ (∀ q, q ≠ reg → q ≠ oddPartner reg → t.reg q = s1.reg q) ∧
        SameMemory s t ∧ SamePsButFlags s t ∧ SameControl s t ∧
        t.flagN = (t.reg reg).msb ∧ t.flagZ = decide (t.reg reg = 0#16 ∧ t.reg (oddPartner reg) = 0#16) ∧
        (0 ≤ k → t.reg reg ++ t.reg (oddPartner reg) = BitVec.ofInt 32 (x.toInt * 2 ^ k.toNat) ∧
          (t.flagV = true ↔ x.toInt * 2 ^ k.toNat < -2 ^ 31 ∨ 2 ^ 31 ≤ x.toInt * 2 ^ k.toNat) ∧
          t.flagC = (decide (0 < k) && x.getLsbD (32 - k.toNat))) ∧
        (k < 0 → (t.reg reg ++ t.reg (oddPartner reg)).toInt = x.toInt / 2 ^ (-k).toNat ∧ t.flagV = false ∧
          t.flagC = x.getLsbD ((-k).toNat - 1)))

/-- XOR into any destination, and SOB: one subtracted, a backward branch unless the result is zero, no flag changed (R118,
R121). That XOR uses the register's value from before the destination is stepped, also for XOR Rn,(Rn)+, is log entry 19;
SOB on R7 is log entry 30. -/
def Obligations.XorAndSobResults : Prop :=
  (∀ (s s1 s2 : State) (reg : Reg) (dst : Operand) (d : Word) (l : Loc), s.Inv → s.params.eisPresent = true →
    resolve .word dst s = .ok l s1 → readLocWord l s1 = .ok d s2 → WordReady s2 l →
    WordOutcome (.xor reg dst) s s2 [dst] l (s.reg reg ^^^ d)
      ⟨(s.reg reg ^^^ d).getLsbD 15, decide (s.reg reg ^^^ d = 0#16), false, s.flagC⟩) ∧
  (∀ (s : State) (reg : Reg) (nn : BitVec 6), s.params.eisPresent = true → reg ≠ .r7 →
    exec (.sob reg nn) s =
      .next (if s.reg reg = 1#16 then s.setReg reg 0#16
        else (s.setReg reg (s.reg reg - 1#16)).setReg .r7 (s.pc - 2#16 * nn.setWidth 16))) ∧
  (∀ (s : State) (nn : BitVec 6), s.params.eisPresent = true →
    exec (.sob .r7 nn) s =
      .next (if s.pc = 1#16 then s.setReg .r7 0#16 else s.setReg .r7 (s.pc - 1#16 - 2#16 * nn.setWidth 16)))

/-- What the spec refuses: the six EIS instructions when `EIS_PRESENT` is false, the floating words and the words
0o170000 to 0o177777 always (R112, R122, R123). -/
def Obligations.RefusedWords : Prop :=
  ∀ (s : State) (reg : Reg) (o : Operand) (nn : BitVec 6) (x : BitVec 12),
    (s.params.eisPresent = false →
      exec (.mul reg o) s = .refused (.eisAbsent "MUL") ∧ exec (.div reg o) s = .refused (.eisAbsent "DIV") ∧
      exec (.ash reg o) s = .refused (.eisAbsent "ASH") ∧ exec (.ashc reg o) s = .refused (.eisAbsent "ASHC") ∧
      exec (.xor reg o) s = .refused (.eisAbsent "XOR") ∧ exec (.sob reg nn) s = .refused (.eisAbsent "SOB")) ∧
    exec (.fadd reg) s = .refused (.floatingInstructionSet "FADD") ∧
    exec (.fsub reg) s = .refused (.floatingInstructionSet "FSUB") ∧
    exec (.fmul reg) s = .refused (.floatingInstructionSet "FMUL") ∧
    exec (.fdiv reg) s = .refused (.floatingInstructionSet "FDIV") ∧
    exec (.space1111 x) s = .refused .undefinedEisSpace
end

