-- ==== Sys2Proof/Laws/State.lean ====
section
/-! SUPPORT. One lemma per field per update of the state, and what a register, the PS and its flags read after each
update, so that no later proof unfolds a record update. -/

namespace Sys2Proof.Machine

/-! ## The fields an update leaves alone -/
@[simp] theorem State.setReg_ps (s : State) (r : Reg) (v : Word) : (s.setReg r v).ps = s.ps := rfl
@[simp] theorem State.setReg_run (s : State) (r : Reg) (v : Word) : (s.setReg r v).run = s.run := rfl
@[simp] theorem State.setReg_pending (s : State) (r : Reg) (v : Word) : (s.setReg r v).pending = s.pending := rfl
@[simp] theorem State.setReg_transfers (s : State) (r : Reg) (v : Word) : (s.setReg r v).transfers = s.transfers := rfl
@[simp] theorem State.setReg_traceArmed (s : State) (r : Reg) (v : Word) : (s.setReg r v).traceArmed = s.traceArmed := rfl
@[simp] theorem State.setReg_powerFail (s : State) (r : Reg) (v : Word) : (s.setReg r v).powerFail = s.powerFail := rfl
@[simp] theorem State.setReg_haltRequest (s : State) (r : Reg) (v : Word) : (s.setReg r v).haltRequest = s.haltRequest := rfl
@[simp] theorem State.setReg_doubleFault (s : State) (r : Reg) (v : Word) : (s.setReg r v).doubleFault = s.doubleFault := rfl
@[simp] theorem State.setReg_mem (s : State) (r : Reg) (v : Word) : (s.setReg r v).mem = s.mem := rfl
@[simp] theorem State.setReg_draws (s : State) (r : Reg) (v : Word) : (s.setReg r v).draws = s.draws := rfl
@[simp] theorem State.setReg_params (s : State) (r : Reg) (v : Word) : (s.setReg r v).params = s.params := rfl

@[simp] theorem State.writePs_regs (s : State) (v : Word) : (s.writePs v).regs = s.regs := rfl
@[simp] theorem State.writePs_run (s : State) (v : Word) : (s.writePs v).run = s.run := rfl
@[simp] theorem State.writePs_pending (s : State) (v : Word) : (s.writePs v).pending = s.pending := rfl
@[simp] theorem State.writePs_transfers (s : State) (v : Word) : (s.writePs v).transfers = s.transfers := rfl
@[simp] theorem State.writePs_traceArmed (s : State) (v : Word) : (s.writePs v).traceArmed = s.traceArmed := rfl
@[simp] theorem State.writePs_powerFail (s : State) (v : Word) : (s.writePs v).powerFail = s.powerFail := rfl
@[simp] theorem State.writePs_haltRequest (s : State) (v : Word) : (s.writePs v).haltRequest = s.haltRequest := rfl
@[simp] theorem State.writePs_doubleFault (s : State) (v : Word) : (s.writePs v).doubleFault = s.doubleFault := rfl
@[simp] theorem State.writePs_mem (s : State) (v : Word) : (s.writePs v).mem = s.mem := rfl
@[simp] theorem State.writePs_draws (s : State) (v : Word) : (s.writePs v).draws = s.draws := rfl
@[simp] theorem State.writePs_params (s : State) (v : Word) : (s.writePs v).params = s.params := rfl

@[simp] theorem State.setFlags_regs (s : State) (f : Flags) : (s.setFlags f).regs = s.regs := rfl
@[simp] theorem State.setFlags_run (s : State) (f : Flags) : (s.setFlags f).run = s.run := rfl
@[simp] theorem State.setFlags_pending (s : State) (f : Flags) : (s.setFlags f).pending = s.pending := rfl
@[simp] theorem State.setFlags_transfers (s : State) (f : Flags) : (s.setFlags f).transfers = s.transfers := rfl
@[simp] theorem State.setFlags_traceArmed (s : State) (f : Flags) : (s.setFlags f).traceArmed = s.traceArmed := rfl
@[simp] theorem State.setFlags_powerFail (s : State) (f : Flags) : (s.setFlags f).powerFail = s.powerFail := rfl
@[simp] theorem State.setFlags_haltRequest (s : State) (f : Flags) : (s.setFlags f).haltRequest = s.haltRequest := rfl
@[simp] theorem State.setFlags_doubleFault (s : State) (f : Flags) : (s.setFlags f).doubleFault = s.doubleFault := rfl
@[simp] theorem State.setFlags_mem (s : State) (f : Flags) : (s.setFlags f).mem = s.mem := rfl
@[simp] theorem State.setFlags_draws (s : State) (f : Flags) : (s.setFlags f).draws = s.draws := rfl
@[simp] theorem State.setFlags_params (s : State) (f : Flags) : (s.setFlags f).params = s.params := rfl

@[simp] theorem State.storeByte_regs (s : State) (a : Word) (b : Byte) : (s.storeByte a b).regs = s.regs := rfl
@[simp] theorem State.storeByte_ps (s : State) (a : Word) (b : Byte) : (s.storeByte a b).ps = s.ps := rfl
@[simp] theorem State.storeByte_run (s : State) (a : Word) (b : Byte) : (s.storeByte a b).run = s.run := rfl
@[simp] theorem State.storeByte_pending (s : State) (a : Word) (b : Byte) : (s.storeByte a b).pending = s.pending := rfl
@[simp] theorem State.storeByte_transfers (s : State) (a : Word) (b : Byte) : (s.storeByte a b).transfers = s.transfers := rfl
@[simp] theorem State.storeByte_traceArmed (s : State) (a : Word) (b : Byte) : (s.storeByte a b).traceArmed = s.traceArmed := rfl
@[simp] theorem State.storeByte_powerFail (s : State) (a : Word) (b : Byte) : (s.storeByte a b).powerFail = s.powerFail := rfl
@[simp] theorem State.storeByte_haltRequest (s : State) (a : Word) (b : Byte) : (s.storeByte a b).haltRequest = s.haltRequest := rfl
@[simp] theorem State.storeByte_doubleFault (s : State) (a : Word) (b : Byte) : (s.storeByte a b).doubleFault = s.doubleFault := rfl
@[simp] theorem State.storeByte_draws (s : State) (a : Word) (b : Byte) : (s.storeByte a b).draws = s.draws := rfl
@[simp] theorem State.storeByte_params (s : State) (a : Word) (b : Byte) : (s.storeByte a b).params = s.params := rfl

@[simp] theorem State.storeWord_regs (s : State) (a w : Word) : (s.storeWord a w).regs = s.regs := rfl
@[simp] theorem State.storeWord_ps (s : State) (a w : Word) : (s.storeWord a w).ps = s.ps := rfl
@[simp] theorem State.storeWord_run (s : State) (a w : Word) : (s.storeWord a w).run = s.run := rfl
@[simp] theorem State.storeWord_pending (s : State) (a w : Word) : (s.storeWord a w).pending = s.pending := rfl
@[simp] theorem State.storeWord_transfers (s : State) (a w : Word) : (s.storeWord a w).transfers = s.transfers := rfl
@[simp] theorem State.storeWord_traceArmed (s : State) (a w : Word) : (s.storeWord a w).traceArmed = s.traceArmed := rfl
@[simp] theorem State.storeWord_powerFail (s : State) (a w : Word) : (s.storeWord a w).powerFail = s.powerFail := rfl
@[simp] theorem State.storeWord_haltRequest (s : State) (a w : Word) : (s.storeWord a w).haltRequest = s.haltRequest := rfl
@[simp] theorem State.storeWord_doubleFault (s : State) (a w : Word) : (s.storeWord a w).doubleFault = s.doubleFault := rfl
@[simp] theorem State.storeWord_draws (s : State) (a w : Word) : (s.storeWord a w).draws = s.draws := rfl
@[simp] theorem State.storeWord_params (s : State) (a w : Word) : (s.storeWord a w).params = s.params := rfl

@[simp] theorem State.afterDoubleFault_regs (s : State) : (s.afterDoubleFault).regs = s.regs := rfl
@[simp] theorem State.afterDoubleFault_ps (s : State) : (s.afterDoubleFault).ps = s.ps := rfl
@[simp] theorem State.afterDoubleFault_pending (s : State) : (s.afterDoubleFault).pending = s.pending := rfl
@[simp] theorem State.afterDoubleFault_transfers (s : State) : (s.afterDoubleFault).transfers = s.transfers := rfl
@[simp] theorem State.afterDoubleFault_traceArmed (s : State) : (s.afterDoubleFault).traceArmed = s.traceArmed := rfl
@[simp] theorem State.afterDoubleFault_powerFail (s : State) : (s.afterDoubleFault).powerFail = s.powerFail := rfl
@[simp] theorem State.afterDoubleFault_haltRequest (s : State) : (s.afterDoubleFault).haltRequest = s.haltRequest := rfl
@[simp] theorem State.afterDoubleFault_mem (s : State) : (s.afterDoubleFault).mem = s.mem := rfl
@[simp] theorem State.afterDoubleFault_draws (s : State) : (s.afterDoubleFault).draws = s.draws := rfl
@[simp] theorem State.afterDoubleFault_params (s : State) : (s.afterDoubleFault).params = s.params := rfl

/-! ## The fields an update writes -/

@[simp] theorem State.setReg_regs (s : State) (r : Reg) (v : Word) : (s.setReg r v).regs = s.regs.set r v := rfl

@[simp] theorem State.writePs_ps (s : State) (v : Word) : (s.writePs v).ps = v &&& s.params.psMask := rfl

theorem State.setFlags_ps (s : State) (f : Flags) :
    (s.setFlags f).ps = ((s.ps &&& 0o177760#16) ||| f.bits) &&& s.params.psMask := rfl

@[simp] theorem State.storeByte_mem (s : State) (a : Word) (b : Byte) :
    (s.storeByte a b).mem = s.mem.write a.toNat b := rfl

theorem State.storeWord_mem (s : State) (a w : Word) :
    (s.storeWord a w).mem = (s.mem.write a.toNat (lowByte w)).write (a + 1#16).toNat (highByte w) := rfl

@[simp] theorem State.afterDoubleFault_run (s : State) : s.afterDoubleFault.run = .halted := rfl

@[simp] theorem State.afterDoubleFault_doubleFault (s : State) : s.afterDoubleFault.doubleFault = true := rfl

/-! ## Registers -/

/-- A register read after a register is written. -/
theorem Regs.get_set (g : Regs) (r q : Reg) (v : Word) : (g.set r v).get q = if q = r then v else g.get q := by
  cases r <;> cases q <;> rfl

/-- The later of two writes of one register stays. -/
@[simp] theorem Regs.set_set (g : Regs) (r : Reg) (v w : Word) : (g.set r v).set r w = g.set r w := by
  cases r <;> rfl

/-- Writing a register with its own value changes nothing. -/
@[simp] theorem Regs.set_get (g : Regs) (r : Reg) : g.set r (g.get r) = g := by
  cases r <;> rfl

/-- A register read after a register is written. -/
theorem State.reg_setReg (s : State) (r q : Reg) (v : Word) :
    (s.setReg r v).reg q = if q = r then v else s.reg q := Regs.get_set s.regs r q v

@[simp] theorem State.reg_setReg_same (s : State) (r : Reg) (v : Word) : (s.setReg r v).reg r = v := by
  simp [State.reg_setReg]

@[simp] theorem State.setReg_setReg (s : State) (r : Reg) (v w : Word) :
    (s.setReg r v).setReg r w = s.setReg r w := by
  simp [State.setReg]

@[simp] theorem State.setReg_reg_self (s : State) (r : Reg) : s.setReg r (s.reg r) = s := by
  simp [State.setReg, State.reg]

@[simp] theorem State.pc_eq_reg (s : State) : s.pc = s.reg .r7 := rfl

@[simp] theorem State.sp_eq_reg (s : State) : s.sp = s.reg .r6 := rfl

@[simp] theorem State.reg_writePs (s : State) (v : Word) (q : Reg) : (s.writePs v).reg q = s.reg q := rfl

@[simp] theorem State.reg_setFlags (s : State) (f : Flags) (q : Reg) : (s.setFlags f).reg q = s.reg q := rfl

@[simp] theorem State.reg_storeByte (s : State) (a : Word) (b : Byte) (q : Reg) : (s.storeByte a b).reg q = s.reg q := rfl

@[simp] theorem State.reg_storeWord (s : State) (a w : Word) (q : Reg) : (s.storeWord a w).reg q = s.reg q := rfl

@[simp] theorem State.reg_afterDoubleFault (s : State) (q : Reg) : (s.afterDoubleFault).reg q = s.reg q := rfl

/-- Two states with the same register file read the same in every register. -/
theorem State.reg_congr {s t : State} (h : t.regs = s.regs) (q : Reg) : t.reg q = s.reg q := by
  simp [State.reg, h]

/-! ## The condition codes -/

/-- The flags of two states with one PS are the same. -/
theorem State.flags_congr {s t : State} (h : t.ps = s.ps) : t.flags = s.flags := by
  simp [State.flags, State.flagN, State.flagZ, State.flagV, State.flagC, h]

/-- A PS mask that keeps the condition codes and T keeps the flags written through it (R16). -/
theorem Flags.bits_masked (f : Flags) (m p : Word) (hm : m &&& 0o37#16 = 0o37#16) :
    let q := ((p &&& 0o177760#16) ||| f.bits) &&& m
    q.getLsbD 3 = f.n ∧ q.getLsbD 2 = f.z ∧ q.getLsbD 1 = f.v ∧ q.getLsbD 0 = f.c := by
  have hb (k : Nat) (hk : k < 4) : m.getLsbD k = true := by
    have h := congrArg (fun x : Word => x.getLsbD k) hm
    obtain rfl | rfl | rfl | rfl : k = 0 ∨ k = 1 ∨ k = 2 ∨ k = 3 := by omega
    all_goals simpa using h
  obtain ⟨n, z, v, c⟩ := f
  cases n <;> cases z <;> cases v <;> cases c <;>
    simp [Flags.bits, hb 0 (by omega), hb 1 (by omega), hb 2 (by omega), hb 3 (by omega)]

/-- The flags read after they are written. -/
theorem State.flags_setFlags (s : State) (f : Flags) (hm : s.params.psMask &&& 0o37#16 = 0o37#16) :
    (s.setFlags f).flags = f := by
  obtain ⟨h3, h2, h1, h0⟩ := Flags.bits_masked f s.params.psMask s.ps hm
  simp only [State.flags, State.flagN, State.flagZ, State.flagV, State.flagC, State.setFlags_ps, h3, h2, h1, h0]

/-- The condition codes lie in the low four bits of the PS (R16). -/
theorem Flags.bits_high (f : Flags) : f.bits &&& 0o177760#16 = 0#16 := by
  obtain ⟨n, z, v, c⟩ := f
  cases n <;> cases z <;> cases v <;> cases c <;> decide

/-- A PS with no bit outside the mask is the masked PS. -/
theorem masked_of_clear {p m : Word} (h : p &&& ~~~m = 0#16) : p &&& m = p := by
  ext i hi
  have := congrArg (fun x : Word => x.getLsbD i) h
  simp [hi] at this
  simp only [BitVec.getElem_and]
  cases hp : p[i] <;> simp_all

/-- A write of the condition codes keeps the rest of the PS (R16). -/
theorem State.setFlags_rest (s : State) (f : Flags) (h : s.ps &&& ~~~s.params.psMask = 0#16) :
    (s.setFlags f).ps &&& 0o177760#16 = s.ps &&& 0o177760#16 := by
  rw [State.setFlags_ps, BitVec.and_assoc, BitVec.and_comm s.params.psMask, ← BitVec.and_assoc, BitVec.and_or_distrib_right,
    Flags.bits_high, BitVec.and_assoc s.ps, BitVec.and_self, BitVec.or_zero, BitVec.and_assoc,
    BitVec.and_comm _ s.params.psMask, ← BitVec.and_assoc, masked_of_clear h]

end Sys2Proof.Machine
end

