-- ==== Sys2Proof/Laws/Memory.lean ====
section
/-! SUPPORT. Memory: what a read gives after a write, and that every write keeps the canonical form. -/

namespace Sys2Proof.Machine

/-- The byte written at its address, every other byte as before (R34, R39). -/
theorem Memory.read_write (m : Memory) (a x : Nat) (b : Byte) :
    (m.write a b).read x = if x = a then some b else m.read x := by
  induction m with
  | nil => simp [Memory.write, Memory.read, eq_comm]
  | cons c m ih =>
    obtain ⟨k, d⟩ := c
    unfold Memory.write
    by_cases hlt : a < k
    · simp only [if_pos hlt, Memory.read]
      grind
    · by_cases heq : a = k
      · simp only [if_neg hlt, if_pos heq, Memory.read]
        grind
      · simp only [if_neg hlt, if_neg heq, Memory.read, ih]
        grind

/-- A canonical memory from one bound is canonical from a lower one. -/
theorem Memory.risesFrom_mono {m : Memory} {lo hi : Nat} (h : lo ≤ hi) (hm : m.risesFrom hi = true) :
    m.risesFrom lo = true := by
  cases m with
  | nil => rfl
  | cons c m =>
    obtain ⟨k, d⟩ := c
    simp only [Memory.risesFrom, Bool.and_eq_true, decide_eq_true_eq] at hm ⊢
    exact ⟨⟨⟨by omega, hm.1.1.2⟩, hm.1.2⟩, hm.2⟩

/-- A write inside the address space keeps the form, from any bound not above its address. -/
theorem Memory.risesFrom_write {m : Memory} {lo a : Nat} (b : Byte) (hlo : lo ≤ a) (ha : a < 65536)
    (hm : m.risesFrom lo = true) : (m.write a b).risesFrom lo = true := by
  induction m generalizing lo with
  | nil => simp [Memory.write, Memory.risesFrom, unlistedByte, hlo, ha]
  | cons c m ih =>
    obtain ⟨k, d⟩ := c
    simp only [Memory.risesFrom, Bool.and_eq_true, decide_eq_true_eq] at hm
    obtain ⟨⟨⟨h1, h2⟩, h3⟩, h4⟩ := hm
    unfold Memory.write
    split_ifs with hlt heq
    · simp only [Memory.risesFrom, Bool.and_eq_true, decide_eq_true_eq]
      exact ⟨⟨⟨hlo, ha⟩, by simp [unlistedByte]⟩, ⟨⟨by omega, h2⟩, h3⟩, h4⟩
    · subst heq
      simp only [Memory.risesFrom, Bool.and_eq_true, decide_eq_true_eq]
      exact ⟨⟨⟨hlo, ha⟩, by simp [unlistedByte]⟩, h4⟩
    · simp only [Memory.risesFrom, Bool.and_eq_true, decide_eq_true_eq]
      exact ⟨⟨⟨h1, h2⟩, h3⟩, ih (by omega) h4⟩

/-- A write inside the address space keeps the canonical form. -/
theorem Memory.wf_write {m : Memory} (a : Word) (b : Byte) (hm : m.wf = true) : (m.write a.toNat b).wf = true :=
  Memory.risesFrom_write b (Nat.zero_le _) a.isLt hm

/-- Storing a byte keeps the canonical form. -/
theorem State.wf_storeByte {s : State} (a : Word) (b : Byte) (h : s.mem.wf = true) : (s.storeByte a b).mem.wf = true :=
  Memory.wf_write a b h

/-- Storing a word keeps the canonical form. -/
theorem State.wf_storeWord {s : State} (a w : Word) (h : s.mem.wf = true) : (s.storeWord a w).mem.wf = true :=
  State.wf_storeByte _ _ (State.wf_storeByte _ _ h)

/-- The addresses of the entries after a write: the address written and those before. -/
theorem Memory.all_write {m : Memory} {a : Nat} {b : Byte} (p : Nat → Bool) (hp : p a = true)
    (hm : (m.all fun c => p c.1) = true) : ((m.write a b).all fun c => p c.1) = true := by
  induction m with
  | nil => simp [Memory.write, hp]
  | cons c m ih =>
    obtain ⟨k, d⟩ := c
    simp only [List.all_cons, Bool.and_eq_true] at hm
    unfold Memory.write
    split_ifs with hlt heq <;> simp only [List.all_cons, Bool.and_eq_true]
    · exact ⟨hp, hm.1, hm.2⟩
    · exact ⟨hp, hm.2⟩
    · exact ⟨hm.1, ih hm.2⟩

/-- A byte read after a byte is stored. -/
theorem State.read_storeByte (s : State) (a : Word) (b : Byte) (x : Nat) :
    (s.storeByte a b).mem.read x = if x = a.toNat then some b else s.mem.read x := Memory.read_write _ _ _ _

/-! ## Direct memory access -/

/-- Where the device's address is memory the byte is stored, and nothing but memory changes (R44). -/
theorem State.deviceStore_eq (s : State) (d : DeviceStore) :
    s.deviceStore d = { s with mem := (s.deviceStore d).mem } := by
  unfold State.deviceStore; split <;> rfl

/-- Nothing but memory changes when devices store (R44). -/
theorem State.deviceStoreAll_eq (ds : List DeviceStore) (s : State) :
    s.deviceStoreAll ds = { s with mem := (s.deviceStoreAll ds).mem } := by
  induction ds generalizing s with
  | nil => rfl
  | cons d ds ih => rw [State.deviceStoreAll, ih, State.deviceStore_eq]

/-- A byte read after a device stores one: the byte stored, where it is memory (R39, R44). -/
theorem State.read_deviceStore (s : State) (d : DeviceStore) (x : Nat) :
    (s.deviceStore d).mem.read x =
      if x = d.address.toNat ∧ x < s.params.ramTop then some d.value else s.mem.read x := by
  unfold State.deviceStore
  split_ifs with h1 h2 h2
  · rw [State.read_storeByte, if_pos h2.1]
  · rw [State.read_storeByte, if_neg (fun e => h2 ⟨e, by omega⟩)]
  · omega
  · rfl

/-- A byte to which no device stores reads as before. -/
theorem State.read_deviceStoreAll (ds : List DeviceStore) (s : State) (x : Nat)
    (h : ∀ d ∈ ds, d.address.toNat ≠ x) : (s.deviceStoreAll ds).mem.read x = s.mem.read x := by
  induction ds generalizing s with
  | nil => rfl
  | cons d ds ih =>
    rw [State.deviceStoreAll, ih _ (fun e he => h e (List.mem_cons_of_mem _ he)), State.read_deviceStore,
      if_neg (fun e => h d List.mem_cons_self e.1.symm)]

/-- With no transfer waiting, devices do nothing. -/
@[simp] theorem State.busTurn_quiet {s : State} (h : s.transfers = []) : s.busTurn = s := by
  unfold State.busTurn; rw [h]

/-- The stores of the first group are made, and it is no longer waiting. -/
theorem State.busTurn_cons {s : State} {g : List DeviceStore} {gs : List (List DeviceStore)}
    (h : s.transfers = g :: gs) : s.busTurn = { s.deviceStoreAll g with transfers := gs } := by
  unfold State.busTurn; rw [h]

/-- All that a turn of the devices can change is memory and the transfers waiting (R44). -/
theorem State.busTurn_eq (s : State) :
    s.busTurn = { s with mem := s.busTurn.mem, transfers := s.busTurn.transfers } := by
  cases h : s.transfers with
  | nil => rw [State.busTurn_quiet h]
  | cons g gs => rw [State.busTurn_cons h, State.deviceStoreAll_eq]

@[simp] theorem State.busTurn_regs (s : State) : s.busTurn.regs = s.regs := by rw [State.busTurn_eq]
@[simp] theorem State.busTurn_ps (s : State) : s.busTurn.ps = s.ps := by rw [State.busTurn_eq]
@[simp] theorem State.busTurn_run (s : State) : s.busTurn.run = s.run := by rw [State.busTurn_eq]
@[simp] theorem State.busTurn_pending (s : State) : s.busTurn.pending = s.pending := by rw [State.busTurn_eq]
@[simp] theorem State.busTurn_traceArmed (s : State) : s.busTurn.traceArmed = s.traceArmed := by rw [State.busTurn_eq]
@[simp] theorem State.busTurn_powerFail (s : State) : s.busTurn.powerFail = s.powerFail := by rw [State.busTurn_eq]
@[simp] theorem State.busTurn_haltRequest (s : State) : s.busTurn.haltRequest = s.haltRequest := by rw [State.busTurn_eq]
@[simp] theorem State.busTurn_doubleFault (s : State) : s.busTurn.doubleFault = s.doubleFault := by rw [State.busTurn_eq]
@[simp] theorem State.busTurn_draws (s : State) : s.busTurn.draws = s.draws := by rw [State.busTurn_eq]
@[simp] theorem State.busTurn_params (s : State) : s.busTurn.params = s.params := by rw [State.busTurn_eq]

@[simp] theorem State.reg_busTurn (s : State) (q : Reg) : s.busTurn.reg q = s.reg q :=
  State.reg_congr (State.busTurn_regs s) q

/-- After a turn, the transfers waiting are the last of those that were. -/
theorem State.busTurn_transfers (s : State) : s.busTurn.transfers <:+ s.transfers := by
  cases h : s.transfers with
  | nil => rw [State.busTurn_quiet h, h]
  | cons g gs => rw [State.busTurn_cons h]; exact List.suffix_cons g gs

/-- Turns look at memory, the transfers waiting and the parameters alone. -/
theorem State.busTurn_congr {s t : State} (hm : t.mem = s.mem) (hx : t.transfers = s.transfers)
    (hp : t.params = s.params) : t.busTurn = { t with mem := s.busTurn.mem, transfers := s.busTurn.transfers } := by
  have all (ds : List DeviceStore) : ∀ s t : State, t.mem = s.mem → t.params = s.params →
      (t.deviceStoreAll ds).mem = (s.deviceStoreAll ds).mem := by
    induction ds with
    | nil => intro s t hm _; exact hm
    | cons d ds ih =>
      intro s t hm hp
      refine ih _ _ ?_ (by rw [State.deviceStore_eq t, State.deviceStore_eq s, hp])
      unfold State.deviceStore
      rw [hp]
      split <;> simp [State.storeByte, hm]
  cases h : s.transfers with
  | nil => rw [State.busTurn_quiet (hx.trans h), State.busTurn_quiet h, ← hm, ← hx]
  | cons g gs =>
    rw [State.busTurn_cons (hx.trans h), State.busTurn_cons h, State.deviceStoreAll_eq, all g s t hm hp]

/-- An odd address is an odd number (R35). -/
theorem isOdd_eq (a : Word) : isOdd a = decide (a.toNat % 2 = 1) := by
  simp [isOdd, BitVec.getLsbD, Nat.testBit_zero]

/-- Two bytes further, an address is as odd as before. -/
theorem isOdd_add_two (a : Word) : isOdd (a + 2#16) = isOdd a := by
  rw [isOdd_eq, isOdd_eq, BitVec.toNat_add]
  congr 1
  simp

/-- Two bytes lower, an address is as odd as before. -/
theorem isOdd_sub_two (a : Word) : isOdd (a - 2#16) = isOdd a := by
  rw [← isOdd_add_two (a - 2#16), BitVec.sub_add_cancel]

/-- Four bytes lower, an address is as odd as before. -/
theorem isOdd_sub_four (a : Word) : isOdd (a - 4#16) = isOdd a := by
  rw [show a - 4#16 = a - 2#16 - 2#16 by bv_omega, isOdd_sub_two, isOdd_sub_two]

/-- The byte after an even address stands one further: it does not wrap (R42). -/
theorem toNat_succ_of_even {a : Word} (h : isOdd a = false) : (a + 1#16).toNat = a.toNat + 1 := by
  have : a ≠ 65535#16 := by rintro rfl; simp [isOdd] at h
  have h2 : a.toNat ≠ 65535 := fun h => this (by apply BitVec.eq_of_toNat_eq; simpa using h)
  have := a.isLt
  simp [BitVec.toNat_add]
  omega

/-- The bits of joined bytes (R33). -/
theorem getLsbD_joinBytes (hi lo : Byte) (i : Nat) :
    (joinBytes hi lo).getLsbD i = if i < 8 then lo.getLsbD i else hi.getLsbD (i - 8) := BitVec.getLsbD_append

/-- The bytes of a word, joined again (R33). -/
@[simp] theorem joinBytes_bytes (w : Word) : joinBytes (highByte w) (lowByte w) = w := by
  apply BitVec.eq_of_getLsbD_eq
  intro i hi
  rw [getLsbD_joinBytes]
  split_ifs with h
  · simp [lowByte, h]
  · simp [highByte, show i - 8 < 8 by omega, show 8 + (i - 8) = i by omega]

/-- The low byte of joined bytes (R33). -/
@[simp] theorem lowByte_joinBytes (hi lo : Byte) : lowByte (joinBytes hi lo) = lo := by
  apply BitVec.eq_of_getLsbD_eq
  intro i h
  simp only [lowByte, BitVec.getLsbD_extractLsb', h, getLsbD_joinBytes]
  simp [h]

/-- The high byte of joined bytes (R33). -/
@[simp] theorem highByte_joinBytes (hi lo : Byte) : highByte (joinBytes hi lo) = hi := by
  apply BitVec.eq_of_getLsbD_eq
  intro i h
  simp only [highByte, BitVec.getLsbD_extractLsb', h, getLsbD_joinBytes]
  simp

end Sys2Proof.Machine
end

