-- ==== Sys2Proof/Laws/Ops.lean ====
section
/-! SUPPORT. What each memory access, fetch, push, pop, trap entry and trap return can do, said once: when it answers a
value, which state it leaves. -/

namespace Sys2Proof.Machine

/-! ## Sequencing -/

@[simp] theorem Res.bind_ok {α β : Type} (a : α) (s : State) (k : α → State → Res β) : (Res.ok a s).bind k = k a s := rfl

@[simp] theorem Res.bind_exn {α β : Type} (e : Exn) (s : State) (k : α → State → Res β) :
    (Res.exn e s : Res α).bind k = .exn e s := rfl

@[simp] theorem Res.bind_fault {α β : Type} (f : Fault) (k : α → State → Res β) :
    (Res.fault f : Res α).bind k = .fault f := rfl

@[simp] theorem Res.bind_refused {α β : Type} (r : Refusal) (k : α → State → Res β) :
    (Res.refused r : Res α).bind k = .refused r := rfl

/-- A sequence answers a value when its first part does and its second does from there. -/
theorem Res.bind_eq_ok {α β : Type} {x : Res α} {k : α → State → Res β} {b : β} {t : State} :
    x.bind k = .ok b t ↔ ∃ a s, x = .ok a s ∧ k a s = .ok b t := by
  cases x <;> simp [Res.bind]

@[simp] theorem finish_ok {α : Type} (a : α) (s : State) : finish (Res.ok a s) = .next s := rfl

@[simp] theorem finish_exn {α : Type} (e : Exn) (s : State) : finish (Res.exn e s : Res α) = raise e s := rfl

@[simp] theorem finish_fault {α : Type} (f : Fault) : finish (Res.fault f : Res α) = .fault f := rfl

@[simp] theorem finish_refused {α : Type} (r : Refusal) : finish (Res.refused r : Res α) = .refused r := rfl

/-! ## Frames -/

/-- A byte that devices still store to later is one they store to now (R44). -/
theorem State.DeviceStoresTo.mono {s t : State} {x : Nat} (h : t.transfers <:+ s.transfers) (k : t.DeviceStoresTo x) :
    s.DeviceStoresTo x := by
  obtain ⟨g, hg, d, hd, e⟩ := k
  exact ⟨g, h.subset hg, d, hd, e⟩

theorem SameMemory.refl (s : State) : SameMemory s s := fun _ _ => rfl

theorem SameMemory.trans {s t u : State} (h : SameMemory s t) (hx : t.transfers <:+ s.transfers) (k : SameMemory t u) :
    SameMemory s u := fun x hn => by rw [k x (fun d => hn (d.mono hx)), h x hn]

/-- Memory the same as one that is the same but for some bytes. -/
theorem SameMemory.trans_but {s t u : State} {a : Word} {n : Nat} (h : SameMemory s t) (hx : t.transfers <:+ s.transfers)
    (k : SameMemoryBut t u a n) : SameMemoryBut s u a n := fun x hn ha => by
  rw [k x (fun d => hn (d.mono hx)) ha, h x hn]

/-- With no transfer waiting, the frame is over every byte. -/
theorem SameMemory.of_quiet {s t : State} (h : SameMemory s t) (hs : s.transfers = []) (x : Nat) :
    t.mem.read x = s.mem.read x := h x fun ⟨g, hg, _⟩ => by rw [hs] at hg; cases hg

/-- A turn of the devices changes only the bytes they store to (R44). -/
theorem busTurn_sameMemory (s : State) : SameMemory s s.busTurn := by
  intro x hn
  cases h : s.transfers with
  | nil => rw [State.busTurn_quiet h]
  | cons g gs =>
    rw [State.busTurn_cons h]
    exact State.read_deviceStoreAll g s x fun d hd e => hn ⟨g, by rw [h]; exact List.mem_cons_self, d, hd, e⟩

/-! ## Reads -/

/-- `t` is `s` with some free values drawn, and turns of the devices taken: all that a read can change. -/
structure Drawn (s t : State) : Prop where
  eq : t = { s with draws := t.draws, mem := t.mem, transfers := t.transfers }
  memory : SameMemory s t
  transfers : t.transfers <:+ s.transfers

theorem Drawn.refl (s : State) : Drawn s s := ⟨rfl, .refl s, List.suffix_refl _⟩

theorem Drawn.trans {s t u : State} (h : Drawn s t) (k : Drawn t u) : Drawn s u :=
  ⟨by rw [k.eq, h.eq], h.memory.trans h.transfers k.memory, k.transfers.trans h.transfers⟩

theorem Drawn.reg {s t : State} (h : Drawn s t) (q : Reg) : t.reg q = s.reg q := by rw [h.eq]; rfl

theorem Drawn.params {s t : State} (h : Drawn s t) : t.params = s.params := by rw [h.eq]

theorem Drawn.ps {s t : State} (h : Drawn s t) : t.ps = s.ps := by rw [h.eq]

/-- A turn of the devices draws nothing and stores only where devices store. -/
theorem busTurn_drawn (s : State) : Drawn s s.busTurn :=
  ⟨by rw [State.busTurn_eq], busTurn_sameMemory s, State.busTurn_transfers s⟩

/-- A free value drawn changes only the count. -/
theorem draw_drawn (s : State) (n : Nat) : Drawn s { s with draws := n } := ⟨rfl, fun _ _ => rfl, List.suffix_refl _⟩

/-- A byte of RAM read is one that has been written; nothing changes. -/
theorem ramByte_eq_ok {a : Word} {s t : State} {b : Byte} :
    ramByte a s = .ok b t ↔ s.mem.read a.toNat = some b ∧ t = s := by
  unfold ramByte
  cases s.mem.read a.toNat <;> simp [eq_comm]

/-- A byte read on the bus is a byte of RAM, or a free value from a device. -/
theorem readByteNow_ok {a : Word} {s t : State} {b : Byte} (h : readByteNow a s = .ok b t) :
    (region s.params a 1 = .ram ∧ s.mem.read a.toNat = some b ∧ t = s) ∨
      (region s.params a 1 = .device ∧ b = Config.freeByte s.draws ∧ t = { s with draws := s.draws + 1 }) := by
  unfold readByteNow at h
  split at h
  · exact .inl ⟨‹_›, (ramByte_eq_ok.mp h).1, (ramByte_eq_ok.mp h).2⟩
  · cases h; exact .inr ⟨‹_›, rfl, rfl⟩
  · cases h

/-- A word read on the bus at an even address is two bytes of RAM, or a free value from a device. -/
theorem readWordNow_ok {a : Word} {s t : State} {w : Word} (he : isOdd a = false) (h : readWordNow a s = .ok w t) :
    (region s.params a 2 = .ram ∧ HoldsWord s a w ∧ t = s) ∨
      (region s.params a 2 = .device ∧ w = Config.freeWord s.draws ∧ t = { s with draws := s.draws + 1 }) := by
  unfold readWordNow at h
  cases hr : region s.params a 2 <;> simp only [hr] at h
  · obtain ⟨lo, s1, h1, k1⟩ := Res.bind_eq_ok.mp h
    obtain ⟨hi, s2, h2, k2⟩ := Res.bind_eq_ok.mp k1
    obtain ⟨h1, rfl⟩ := ramByte_eq_ok.mp h1
    obtain ⟨h2, rfl⟩ := ramByte_eq_ok.mp h2
    obtain ⟨rfl, rfl⟩ := (Res.ok.injEq _ _ _ _).mp k2
    rw [toNat_succ_of_even he] at h2
    exact .inl ⟨rfl, ⟨by simpa using h1, by simpa using h2⟩, rfl⟩
  · cases h; exact .inr ⟨rfl, rfl, rfl⟩
  · cases h

/-- A byte read is, after the devices' turn, a byte of RAM, or a free value from a device. -/
theorem readByte_ok {a : Word} {s t : State} {b : Byte} (h : readByte a s = .ok b t) :
    (region s.params a 1 = .ram ∧ s.busTurn.mem.read a.toNat = some b ∧ t = s.busTurn) ∨
      (region s.params a 1 = .device ∧ b = Config.freeByte s.draws ∧ t = { s.busTurn with draws := s.draws + 1 }) := by
  rcases readByteNow_ok h with ⟨h1, h2, h3⟩ | ⟨h1, h2, h3⟩ <;> rw [State.busTurn_params] at h1
  · exact .inl ⟨h1, h2, h3⟩
  · rw [State.busTurn_draws] at h2 h3; exact .inr ⟨h1, h2, h3⟩

/-- A word read is, after the devices' turn, two bytes of RAM at an even address, or a free value from a device. -/
theorem readWord_ok {a : Word} {s t : State} {w : Word} (h : readWord a s = .ok w t) :
    isOdd a = false ∧
      ((region s.params a 2 = .ram ∧ HoldsWord s.busTurn a w ∧ t = s.busTurn) ∨
        (region s.params a 2 = .device ∧ w = Config.freeWord s.draws ∧
          t = { s.busTurn with draws := s.draws + 1 })) := by
  unfold readWord at h
  split at h
  · cases h
  · rename_i he
    simp only [Bool.not_eq_true] at he
    rcases readWordNow_ok he h with ⟨h1, h2, h3⟩ | ⟨h1, h2, h3⟩ <;> rw [State.busTurn_params] at h1
    · exact ⟨he, .inl ⟨h1, h2, h3⟩⟩
    · rw [State.busTurn_draws] at h2 h3; exact ⟨he, .inr ⟨h1, h2, h3⟩⟩

/-- A byte read only draws free values and lets devices take their turn. -/
theorem readByte_drawn {a : Word} {s t : State} {b : Byte} (h : readByte a s = .ok b t) : Drawn s t := by
  obtain ⟨_, _, rfl⟩ | ⟨_, _, rfl⟩ := readByte_ok h
  · exact busTurn_drawn s
  · exact (busTurn_drawn s).trans (draw_drawn _ _)

/-- A word read only draws free values and lets devices take their turn. -/
theorem readWord_drawn {a : Word} {s t : State} {w : Word} (h : readWord a s = .ok w t) : Drawn s t := by
  obtain ⟨_, ⟨_, _, rfl⟩ | ⟨_, _, rfl⟩⟩ := readWord_ok h
  · exact busTurn_drawn s
  · exact (busTurn_drawn s).trans (draw_drawn _ _)

/-- A word that RAM holds after the devices' turn, at an even address, is read (R33). -/
theorem readWord_ram {a w : Word} {s : State} (he : isOdd a = false) (hr : region s.params a 2 = .ram)
    (h : HoldsWord s.busTurn a w) : readWord a s = .ok w s.busTurn := by
  obtain ⟨h1, h2⟩ := h
  rw [← toNat_succ_of_even he] at h2
  simp only [readWord, readWordNow, State.busTurn_params, he, hr, ramByte, h1, h2, Res.bind_ok, joinBytes_bytes,
    Bool.false_eq_true, if_false]

/-- A byte that RAM holds after the devices' turn is read. -/
theorem readByte_ram {a : Word} {b : Byte} {s : State} (hr : region s.params a 1 = .ram)
    (h : s.busTurn.mem.read a.toNat = some b) : readByte a s = .ok b s.busTurn := by
  simp [readByte, readByteNow, hr, ramByte, h]

/-- A word read depends on the parameters, memory, the transfers waiting and the count of free values only. -/
theorem readWord_congr {a w : Word} {s s' t : State} (hp : s'.params = s.params) (hm : s'.mem = s.mem)
    (hx : s'.transfers = s.transfers) (hd : s'.draws = s.draws) (h : readWord a s = .ok w t) :
    readWord a s' = .ok w { s' with draws := t.draws, mem := t.mem, transfers := t.transfers } := by
  have hb := State.busTurn_congr hm hx hp
  obtain ⟨he, ⟨hr, hw, rfl⟩ | ⟨hr, rfl, rfl⟩⟩ := readWord_ok h
  · rw [readWord_ram he (by rw [hp]; exact hr) (by rw [HoldsWord, hb]; exact hw), hb, State.busTurn_draws, hd.symm]
  · simp [readWord, readWordNow, he, hp, hr, hd, hb]

/-! ## Writes -/

/-- The state after a word is written where something answers: devices take their turn, and then a device takes the word
or RAM holds it (R39, R44). -/
def State.putWord (s : State) (a w : Word) : State :=
  if region s.params a 2 = .ram then s.busTurn.storeWord a w else s.busTurn

/-- The state after a byte is written where something answers. -/
def State.putByte (s : State) (a : Word) (b : Byte) : State :=
  if region s.params a 1 = .ram then s.busTurn.storeByte a b else s.busTurn

/-- A word written leaves the state `putWord` says, and was written at an even address where something answers. -/
theorem writeWord_eq_ok {a w : Word} {s t : State} :
    writeWord a w s = .ok () t ↔ (isOdd a = false ∧ region s.params a 2 ≠ .absent) ∧ t = s.putWord a w := by
  unfold writeWord writeWordNow State.putWord
  rw [State.busTurn_params]
  cases isOdd a <;> cases region s.params a 2 <;> simp [eq_comm]

/-- A byte written leaves the state `putByte` says, and was written where something answers. -/
theorem writeByte_eq_ok {a : Word} {b : Byte} {s t : State} :
    writeByte a b s = .ok () t ↔ region s.params a 1 ≠ .absent ∧ t = s.putByte a b := by
  unfold writeByte writeByteNow State.putByte
  rw [State.busTurn_params]
  cases region s.params a 1 <;> simp [eq_comm]

/-- Nothing but memory and the transfers waiting changes when a word is put. -/
theorem State.putWord_eq (s : State) (a w : Word) :
    s.putWord a w = { s with mem := (s.putWord a w).mem, transfers := (s.putWord a w).transfers } := by
  unfold State.putWord
  split
  · rw [State.busTurn_eq]; rfl
  · rw [State.busTurn_eq]

/-- Nothing but memory and the transfers waiting changes when a byte is put. -/
theorem State.putByte_eq (s : State) (a : Word) (b : Byte) :
    s.putByte a b = { s with mem := (s.putByte a b).mem, transfers := (s.putByte a b).transfers } := by
  unfold State.putByte
  split
  · rw [State.busTurn_eq]; rfl
  · rw [State.busTurn_eq]

@[simp] theorem State.reg_putWord (s : State) (a w : Word) (q : Reg) : (s.putWord a w).reg q = s.reg q := by
  rw [State.putWord_eq]; rfl

@[simp] theorem State.reg_putByte (s : State) (a : Word) (b : Byte) (q : Reg) : (s.putByte a b).reg q = s.reg q := by
  rw [State.putByte_eq]; rfl

@[simp] theorem State.putWord_params (s : State) (a w : Word) : (s.putWord a w).params = s.params := by
  rw [State.putWord_eq]

@[simp] theorem State.putByte_params (s : State) (a : Word) (b : Byte) : (s.putByte a b).params = s.params := by
  rw [State.putByte_eq]

@[simp] theorem State.putWord_ps (s : State) (a w : Word) : (s.putWord a w).ps = s.ps := by
  rw [State.putWord_eq]

@[simp] theorem State.putByte_ps (s : State) (a : Word) (b : Byte) : (s.putByte a b).ps = s.ps := by
  rw [State.putByte_eq]

/-- A write leaves the last of the transfers waiting. -/
theorem State.putWord_transfers (s : State) (a w : Word) : (s.putWord a w).transfers <:+ s.transfers := by
  unfold State.putWord; split <;> exact State.busTurn_transfers s

/-- A write leaves the last of the transfers waiting. -/
theorem State.putByte_transfers (s : State) (a : Word) (b : Byte) : (s.putByte a b).transfers <:+ s.transfers := by
  unfold State.putByte; split <;> exact State.busTurn_transfers s

/-- RAM lies below `RAM_TOP`. -/
theorem region_eq_ram {p : Params} {a : Word} {n : Nat} : region p a n = .ram ↔ a.toNat + n ≤ p.ramTop := by
  unfold region
  split_ifs <;> simp_all

/-- The two bytes of a stored word, and every other byte as before (R33, R39). -/
theorem storeWord_holds {s : State} {a : Word} (w : Word) (he : isOdd a = false) :
    HoldsWord (s.storeWord a w) a w ∧ SameMemoryBut s (s.storeWord a w) a 2 := by
  have h1 := toNat_succ_of_even he
  refine ⟨⟨?_, ?_⟩, ?_⟩
  · simp [State.storeWord, Memory.read_write, h1]
  · simp [State.storeWord, Memory.read_write, h1]
  · intro x _ hx
    simp only [State.storeWord, State.storeByte_mem, Memory.read_write, h1]
    rw [if_neg (by omega), if_neg (by omega)]

/-- The stored byte, and every other byte as before. -/
theorem storeByte_holds (s : State) (a : Word) (b : Byte) :
    (s.storeByte a b).mem.read a.toNat = some b ∧ SameMemoryBut s (s.storeByte a b) a 1 := by
  refine ⟨by simp [Memory.read_write], ?_⟩
  intro x _ hx
  simp only [State.storeByte_mem, Memory.read_write]
  rw [if_neg (by omega)]

/-- A word put in RAM stands there, and other bytes are as before but where devices stored (R39, R44). -/
theorem putWord_ram {s : State} {a : Word} (w : Word) (he : isOdd a = false) (hr : region s.params a 2 = .ram) :
    HoldsWord (s.putWord a w) a w ∧ SameMemoryBut s (s.putWord a w) a 2 := by
  rw [State.putWord, if_pos hr]
  exact ⟨(storeWord_holds w he).1,
    (busTurn_sameMemory s).trans_but (State.busTurn_transfers s) (storeWord_holds w he).2⟩

/-- A word a device takes changes no byte but those devices store to (R39). -/
theorem putWord_device {s : State} {a : Word} (w : Word) (hr : region s.params a 2 ≠ .ram) :
    SameMemory s (s.putWord a w) := by
  rw [State.putWord, if_neg hr]; exact busTurn_sameMemory s

/-- A byte put in RAM stands there, and other bytes are as before but where devices stored. -/
theorem putByte_ram {s : State} {a : Word} (b : Byte) (hr : region s.params a 1 = .ram) :
    (s.putByte a b).mem.read a.toNat = some b ∧ SameMemoryBut s (s.putByte a b) a 1 := by
  rw [State.putByte, if_pos hr]
  exact ⟨(storeByte_holds _ a b).1,
    (busTurn_sameMemory s).trans_but (State.busTurn_transfers s) (storeByte_holds _ a b).2⟩

/-- A byte a device takes changes no byte but those devices store to. -/
theorem putByte_device {s : State} {a : Word} (b : Byte) (hr : region s.params a 1 ≠ .ram) :
    SameMemory s (s.putByte a b) := by
  rw [State.putByte, if_neg hr]; exact busTurn_sameMemory s

/-! ## Fetch, push, pop -/

/-- A fetch reads the word at the PC and moves the PC by 2 (R13). -/
theorem fetch_ok {s t : State} {w : Word} (h : fetch s = .ok w t) :
    ∃ u, readWord s.pc s = .ok w u ∧ t = u.setReg .r7 (s.pc + 2#16) := by
  obtain ⟨v, u, h1, h2⟩ := Res.bind_eq_ok.mp h
  cases h2
  exact ⟨u, h1, by rw [State.pc_eq_reg, State.pc_eq_reg, (readWord_drawn h1).reg]⟩

/-- A word at the PC is fetched. -/
theorem fetch_of_read {s u : State} {w : Word} (h : readWord s.pc s = .ok w u) :
    fetch s = .ok w (u.setReg .r7 (s.pc + 2#16)) := by
  rw [fetch, h, Res.bind_ok, State.pc_eq_reg, State.pc_eq_reg, (readWord_drawn h).reg]

/-- A pop reads the word at SP and moves SP up by 2 (R11). -/
theorem pop_ok {s t : State} {w : Word} (h : pop s = .ok w t) :
    ∃ u, readWord s.sp s = .ok w u ∧ t = u.setReg .r6 (s.sp + 2#16) := by
  obtain ⟨v, u, h1, h2⟩ := Res.bind_eq_ok.mp h
  cases h2
  exact ⟨u, h1, by rw [State.sp_eq_reg, State.sp_eq_reg, (readWord_drawn h1).reg]⟩

/-- A word at SP is popped. -/
theorem pop_of_read {s u : State} {w : Word} (h : readWord s.sp s = .ok w u) :
    pop s = .ok w (u.setReg .r6 (s.sp + 2#16)) := by
  rw [pop, h, Res.bind_ok, State.sp_eq_reg, State.sp_eq_reg, (readWord_drawn h).reg]

/-- A push moves SP down by 2 and writes there (R11). -/
theorem push_eq_ok {v : Word} {s t : State} :
    push v s = .ok () t ↔ (isOdd (s.sp - 2#16) = false ∧ region s.params (s.sp - 2#16) 2 ≠ .absent) ∧
      t = (s.setReg .r6 (s.sp - 2#16)).putWord (s.sp - 2#16) v := by
  simp only [push, State.sp_eq_reg, State.reg_setReg_same, writeWord_eq_ok, State.setReg_params]

/-- A pop with SP odd raises the odd address exception and changes nothing (R35). -/
theorem pop_odd {s : State} (h : isOdd s.sp = true) : pop s = .exn (.oddAddress s.sp) s := by
  rw [pop, readWord, if_pos h, Res.bind_exn]

/-- A pop of a word that nothing answers raises the bus timeout after the devices' turn (R41, R44). -/
theorem pop_absent {s : State} (h : isOdd s.sp = false) (hr : region s.params s.sp 2 = .absent) :
    pop s = .exn (.busTimeout s.sp) s.busTurn := by
  rw [pop, readWord, if_neg (by rw [h]; decide), readWordNow, State.busTurn_params, hr, Res.bind_exn]

/-- A push with SP odd raises the odd address exception, SP already lowered (R35, R238). -/
theorem push_odd {s : State} (v : Word) (h : isOdd s.sp = true) :
    push v s = .exn (.oddAddress (s.sp - 2#16)) (s.setReg .r6 (s.sp - 2#16)) := by
  simp only [push, State.sp_eq_reg, State.reg_setReg_same, writeWord]
  rw [if_pos (by rw [isOdd_sub_two]; exact h)]

/-- A push to a word that nothing answers raises the bus timeout, SP already lowered (R41, R44, R238). -/
theorem push_absent {s : State} (v : Word) (h : isOdd s.sp = false) (hr : region s.params (s.sp - 2#16) 2 = .absent) :
    push v s = .exn (.busTimeout (s.sp - 2#16)) (s.setReg .r6 (s.sp - 2#16)).busTurn := by
  simp only [State.sp_eq_reg] at h hr
  simp only [push, State.sp_eq_reg, State.reg_setReg_same, writeWord, writeWordNow, State.busTurn_params,
    State.setReg_params, hr]
  rw [if_neg (by rw [isOdd_sub_two, h]; decide)]

/-! ## Taking an exception and returning -/

/-- What entering a vector does when nothing goes wrong (R236). -/
theorem enterVector_ok {v : Word} {s t : State} (h : enterVector v s = .ok () t) :
    ∃ newPc newPs s1 s2 s3 s4, readWord v s = .ok newPc s1 ∧ readWord (v + 2#16) s1 = .ok newPs s2 ∧
      stackOverlapsVector v s.sp = false ∧ push s.ps s2 = .ok () s3 ∧ push s.pc s3 = .ok () s4 ∧
      t = { (s4.setReg .r7 newPc).writePs newPs with run := .running } := by
  obtain ⟨newPc, s1, h1, h⟩ := Res.bind_eq_ok.mp h
  obtain ⟨newPs, s2, h2, h⟩ := Res.bind_eq_ok.mp h
  have hd := (readWord_drawn h1).trans (readWord_drawn h2)
  split at h
  · cases h
  · rename_i ho
    obtain ⟨_, s3, h3, h⟩ := Res.bind_eq_ok.mp h
    obtain ⟨_, s4, h4, h⟩ := Res.bind_eq_ok.mp h
    cases h
    rw [State.sp_eq_reg, hd.reg] at ho
    exact ⟨newPc, newPs, s1, s2, s3, s4, h1, h2, by simpa using ho, h3, h4, rfl⟩

/-- Trap entry either enters the vector or ends in the halted state of a double fault (R236, R241). -/
theorem trapEntry_next {v : Word} {s t : State} (h : trapEntry v s = .next t) :
    enterVector v s = .ok () t ∨ ∃ e u, enterVector v s = .exn e u ∧ t = u.afterDoubleFault := by
  unfold trapEntry at h
  split at h
  · cases h; exact .inl ‹_›
  · cases h; exact .inr ⟨_, _, ‹_›, rfl⟩
  · cases h
  · cases h

/-- An instruction that ends in a next state completed, or raised an exception whose trap was taken. -/
theorem finish_next {α : Type} {x : Res α} {t : State} (h : finish x = .next t) :
    (∃ a, x = .ok a t) ∨ ∃ e u, x = .exn e u ∧ raise e u = .next t := by
  cases x with
  | ok a s => cases h; exact .inl ⟨a, rfl⟩
  | exn e s => exact .inr ⟨e, s, rfl, h⟩
  | fault f => cases h
  | refused r => cases h

/-- A trap return pops the PC and then the PS, masked (R240). -/
theorem trapReturn_ok {s t : State} (h : trapReturn s = .ok () t) :
    ∃ newPc newPs s1 s2, pop s = .ok newPc s1 ∧ pop (s1.setReg .r7 newPc) = .ok newPs s2 ∧ t = s2.writePs newPs := by
  obtain ⟨newPc, s1, h1, h⟩ := Res.bind_eq_ok.mp h
  obtain ⟨newPs, s2, h2, h⟩ := Res.bind_eq_ok.mp h
  cases h
  exact ⟨newPc, newPs, s1, s2, h1, h2, rfl⟩

end Sys2Proof.Machine
end

