-- ==== Sys2Proof/Laws/Operands.lean ====
section
/-! SUPPORT. What resolving an operand, reading and writing a location and the shared shapes of the instructions do, said
once; and the outcomes the statements speak of, from the state an instruction ends in. -/

namespace Sys2Proof.Machine

/-! ## Resolving -/

/-- `t` is `s` with registers stepped, free values drawn and turns of the devices taken: all that resolving a field can
change (R72, R44). -/
structure Moved (s t : State) : Prop where
  eq : t = { s with regs := t.regs, draws := t.draws, mem := t.mem, transfers := t.transfers }
  memory : SameMemory s t
  transfers : t.transfers <:+ s.transfers

theorem Moved.refl (s : State) : Moved s s := ⟨rfl, .refl s, List.suffix_refl _⟩

theorem Moved.trans {s t u : State} (h : Moved s t) (k : Moved t u) : Moved s u :=
  ⟨by rw [k.eq, h.eq], h.memory.trans h.transfers k.memory, k.transfers.trans h.transfers⟩

theorem Drawn.moved {s t : State} (h : Drawn s t) : Moved s t := ⟨by rw [h.eq], h.memory, h.transfers⟩

theorem Moved.setReg {s t : State} (h : Moved s t) (r : Reg) (v : Word) : Moved s (t.setReg r v) :=
  h.trans ⟨rfl, fun _ _ => rfl, List.suffix_refl _⟩

theorem Moved.ps {s t : State} (h : Moved s t) : t.ps = s.ps := by rw [h.eq]

theorem Moved.params {s t : State} (h : Moved s t) : t.params = s.params := by rw [h.eq]

theorem Moved.flags {s t : State} (h : Moved s t) : t.flags = s.flags := State.flags_congr h.ps

/-- A fetch moves only the PC. -/
theorem fetch_moved {s t : State} {w : Word} (h : fetch s = .ok w t) :
    Moved s t ∧ ∀ r, r ≠ .r7 → t.reg r = s.reg r := by
  obtain ⟨u, h1, rfl⟩ := fetch_ok h
  have hd := readWord_drawn h1
  exact ⟨hd.moved.setReg _ _, fun r hr => by rw [State.reg_setReg, if_neg hr, hd.reg]⟩

/-- Resolving a field only steps its register, moves the PC and draws free values (R58, R72). -/
theorem resolve_moved {n : Size} {o : Operand} {s t : State} {l : Loc} (h : resolve n o s = .ok l t) :
    Moved s t ∧ ∀ r, r ≠ .r7 → ¬ o.Steps r → t.reg r = s.reg r := by
  obtain ⟨m, q⟩ := o
  cases m <;> simp only [resolve] at h
  · cases h; exact ⟨.refl _, fun _ _ _ => rfl⟩
  · cases h; exact ⟨.refl _, fun _ _ _ => rfl⟩
  · cases h
    exact ⟨(Moved.refl _).setReg _ _, fun r _ hs => by
      rw [State.reg_setReg, if_neg (fun e => hs ⟨e.symm, rfl⟩)]⟩
  · obtain ⟨a, u, h1, h2⟩ := Res.bind_eq_ok.mp h
    cases h2
    have hd := readWord_drawn h1
    exact ⟨hd.moved.setReg _ _, fun r _ hs => by
      rw [State.reg_setReg, if_neg (fun e => hs ⟨e.symm, rfl⟩), hd.reg]⟩
  · cases h
    exact ⟨(Moved.refl _).setReg _ _, fun r _ hs => by
      rw [State.reg_setReg, if_neg (fun e => hs ⟨e.symm, rfl⟩)]⟩
  · obtain ⟨a, u, h1, h2⟩ := Res.bind_eq_ok.mp h
    cases h2
    have hd := readWord_drawn h1
    exact ⟨((Moved.refl s).setReg _ _).trans hd.moved, fun r _ hs => by
      rw [hd.reg, State.reg_setReg, if_neg (fun e => hs ⟨e.symm, rfl⟩)]⟩
  · obtain ⟨x, u, h1, h2⟩ := Res.bind_eq_ok.mp h
    cases h2
    exact ⟨(fetch_moved h1).1, fun r hr _ => (fetch_moved h1).2 r hr⟩
  · obtain ⟨x, u, h1, h2⟩ := Res.bind_eq_ok.mp h
    obtain ⟨a, u2, h3, h4⟩ := Res.bind_eq_ok.mp h2
    cases h4
    have hd := readWord_drawn h3
    exact ⟨(fetch_moved h1).1.trans hd.moved, fun r hr _ => by rw [hd.reg, (fetch_moved h1).2 r hr]⟩

/-! ## Locations -/

/-- Reading a word location only draws free values. -/
theorem readLocWord_drawn {l : Loc} {s t : State} {v : Word} (h : readLocWord l s = .ok v t) : Drawn s t := by
  cases l with
  | reg r => cases h; exact .refl _
  | mem a => exact readWord_drawn h

/-- Reading a byte location only draws free values. -/
theorem readLocByte_drawn {l : Loc} {s t : State} {v : Byte} (h : readLocByte l s = .ok v t) : Drawn s t := by
  cases l with
  | reg r => cases h; exact .refl _
  | mem a => exact readByte_drawn h

/-- The state after a word is written to a ready location. -/
def State.putLocWord (s : State) (l : Loc) (v : Word) : State :=
  match l with
  | .reg r => s.setReg r v
  | .mem a => s.putWord a v

/-- The state after a byte is written to a ready location; a register takes the word `v`. -/
def State.putLocByte (s : State) (l : Loc) (b : Byte) (v : Word) : State :=
  match l with
  | .reg r => s.setReg r v
  | .mem a => s.putByte a b

/-- A word is written exactly to a ready location. -/
theorem writeLocWord_eq_ok {l : Loc} {v : Word} {s t : State} :
    writeLocWord l v s = .ok () t ↔ WordReady s l ∧ t = s.putLocWord l v := by
  cases l with
  | reg r => simp [writeLocWord, State.putLocWord, eq_comm]
  | mem a => exact writeWord_eq_ok

/-- A byte is written exactly to a ready location; a register keeps its high byte. -/
theorem writeLocByte_eq_ok {l : Loc} {b : Byte} {s t : State} :
    writeLocByte l b s = .ok () t ↔ ByteReady s l ∧ t = s.putLocByte l b (keptHighByte s l b) := by
  cases l with
  | reg r => simp [writeLocByte, State.putLocByte, keptHighByte, eq_comm]
  | mem a => exact writeByte_eq_ok

/-- A byte is written exactly to a ready location; a register takes it sign-extended. -/
theorem writeLocSext_eq_ok {l : Loc} {b : Byte} {s t : State} :
    writeLocSext l b s = .ok () t ↔ ByteReady s l ∧ t = s.putLocByte l b (sextByte b) := by
  cases l with
  | reg r => simp [writeLocSext, State.putLocByte, eq_comm]
  | mem a => exact writeByte_eq_ok

theorem State.putLocWord_eq (s : State) (l : Loc) (v : Word) :
    s.putLocWord l v = { s with
      regs := (s.putLocWord l v).regs
      mem := (s.putLocWord l v).mem
      transfers := (s.putLocWord l v).transfers } := by
  cases l with
  | reg r => rfl
  | mem a => simp only [State.putLocWord]; rw [State.putWord_eq]

theorem State.putLocByte_eq (s : State) (l : Loc) (b : Byte) (v : Word) :
    s.putLocByte l b v = { s with
      regs := (s.putLocByte l b v).regs
      mem := (s.putLocByte l b v).mem
      transfers := (s.putLocByte l b v).transfers } := by
  cases l with
  | reg r => rfl
  | mem a => simp only [State.putLocByte]; rw [State.putByte_eq]

@[simp] theorem State.putLocWord_params (s : State) (l : Loc) (v : Word) : (s.putLocWord l v).params = s.params := by
  rw [State.putLocWord_eq]

@[simp] theorem State.putLocByte_params (s : State) (l : Loc) (b : Byte) (v : Word) :
    (s.putLocByte l b v).params = s.params := by
  rw [State.putLocByte_eq]

@[simp] theorem State.putLocWord_ps (s : State) (l : Loc) (v : Word) : (s.putLocWord l v).ps = s.ps := by
  rw [State.putLocWord_eq]

@[simp] theorem State.putLocByte_ps (s : State) (l : Loc) (b : Byte) (v : Word) : (s.putLocByte l b v).ps = s.ps := by
  rw [State.putLocByte_eq]

/-- A write leaves the last of the transfers waiting. -/
theorem State.putLocWord_transfers (s : State) (l : Loc) (v : Word) : (s.putLocWord l v).transfers <:+ s.transfers := by
  cases l with
  | reg r => exact List.suffix_refl _
  | mem a => exact State.putWord_transfers s a v

/-- A write leaves the last of the transfers waiting. -/
theorem State.putLocByte_transfers (s : State) (l : Loc) (b : Byte) (v : Word) :
    (s.putLocByte l b v).transfers <:+ s.transfers := by
  cases l with
  | reg r => exact List.suffix_refl _
  | mem a => exact State.putByte_transfers s a b

/-- A register that is not the location written keeps its value. -/
theorem State.reg_putLocWord (s : State) (l : Loc) (v : Word) (q : Reg) (h : l ≠ .reg q) :
    (s.putLocWord l v).reg q = s.reg q := by
  cases l with
  | reg r => rw [State.putLocWord, State.reg_setReg, if_neg (fun e => h (by rw [e]))]
  | mem a => exact State.reg_putWord s a v q

/-- A register that is not the location written keeps its value. -/
theorem State.reg_putLocByte (s : State) (l : Loc) (b : Byte) (v : Word) (q : Reg) (h : l ≠ .reg q) :
    (s.putLocByte l b v).reg q = s.reg q := by
  cases l with
  | reg r => rw [State.putLocByte, State.reg_setReg, if_neg (fun e => h (by rw [e]))]
  | mem a => exact State.reg_putByte s a b q

/-- The word is stored where it is put. -/
theorem wordStored_putLocWord {s : State} {l : Loc} (v : Word) (h : WordReady s l) :
    WordStored s (s.putLocWord l v) l v := by
  cases l with
  | reg r => exact ⟨State.reg_setReg_same s r v, fun _ _ => rfl⟩
  | mem a =>
    simp only [WordStored, State.putLocWord]
    split_ifs with hr
    · exact putWord_ram v h.1 hr
    · exact putWord_device v hr

/-- The byte is stored where it is put. -/
theorem byteStored_putLocByte (s : State) (l : Loc) (b : Byte) (v : Word) : ByteStored s (s.putLocByte l b v) l b v := by
  cases l with
  | reg r => exact ⟨State.reg_setReg_same s r v, fun _ _ => rfl⟩
  | mem a =>
    simp only [ByteStored, State.putLocByte]
    split_ifs with hr
    · exact putByte_ram b hr
    · exact putByte_device b hr

/-- What is stored after operands are resolved and read is stored from before, and flags written change no memory. -/
theorem WordStored.from {s s2 t u : State} {l : Loc} {v : Word} (hm : Moved s s2) (h : WordStored s2 t l v)
    (hu : u.mem = t.mem) (hr : ∀ q, u.reg q = t.reg q) : WordStored s u l v := by
  cases l with
  | reg q => exact ⟨(hr q).trans h.1, fun x hx => by rw [hu]; exact hm.memory.trans hm.transfers h.2 x hx⟩
  | mem a =>
    rw [WordStored, hm.params] at h
    rw [WordStored, HoldsWord, SameMemory, SameMemoryBut, hu]
    split_ifs at h ⊢
    · exact ⟨h.1, hm.memory.trans_but hm.transfers h.2⟩
    · exact hm.memory.trans hm.transfers h

/-- What is stored after operands are resolved and read is stored from before, and flags written change no memory. -/
theorem ByteStored.from {s s2 t u : State} {l : Loc} {b : Byte} {v : Word} (hm : Moved s s2)
    (h : ByteStored s2 t l b v) (hu : u.mem = t.mem) (hr : ∀ q, u.reg q = t.reg q) : ByteStored s u l b v := by
  cases l with
  | reg q => exact ⟨(hr q).trans h.1, fun x hx => by rw [hu]; exact hm.memory.trans hm.transfers h.2 x hx⟩
  | mem a =>
    rw [ByteStored, hm.params] at h
    rw [ByteStored, SameMemory, SameMemoryBut, hu]
    split_ifs at h ⊢
    · exact ⟨h.1, hm.memory.trans_but hm.transfers h.2⟩
    · exact hm.memory.trans hm.transfers h

/-! ## The shared shapes -/

/-- Reading a source and resolving a destination only steps registers and draws free values (R84, R85). -/
theorem sourceThenLoc_moved {α : Type} {n : Size} {read : State → Res α} {src dst : Operand} {s t : State} {p : α × Loc}
    (hread : ∀ s t v, read s = .ok v t → Moved s t ∧ ∀ r, r ≠ .r7 → ¬ src.Steps r → t.reg r = s.reg r)
    (h : sourceThenLoc n read src dst s = .ok p t) :
    Moved s t ∧ ∀ r, r ≠ .r7 → ¬ src.Steps r → ¬ dst.Steps r → t.reg r = s.reg r := by
  have initial : ((read s).bind fun v s1 => (resolve n dst s1).bind fun l s2 => .ok (v, l) s2) = .ok p t →
      Moved s t ∧ ∀ r, r ≠ .r7 → ¬ src.Steps r → ¬ dst.Steps r → t.reg r = s.reg r := by
    intro h
    obtain ⟨v, s1, h1, k1⟩ := Res.bind_eq_ok.mp h
    obtain ⟨l, s2, h2, k2⟩ := Res.bind_eq_ok.mp k1
    cases k2
    obtain ⟨m1, g1⟩ := hread _ _ _ h1
    obtain ⟨m2, g2⟩ := resolve_moved h2
    exact ⟨m1.trans m2, fun r hr a b => by rw [g2 r hr b, g1 r hr a]⟩
  have modified : ((resolve n dst s).bind fun l s1 => (read s1).bind fun v s2 => .ok (v, l) s2) = .ok p t →
      Moved s t ∧ ∀ r, r ≠ .r7 → ¬ src.Steps r → ¬ dst.Steps r → t.reg r = s.reg r := by
    intro h
    obtain ⟨l, s1, h1, k1⟩ := Res.bind_eq_ok.mp h
    obtain ⟨v, s2, h2, k2⟩ := Res.bind_eq_ok.mp k1
    cases k2
    obtain ⟨m1, g1⟩ := resolve_moved h1
    obtain ⟨m2, g2⟩ := hread _ _ _ h2
    exact ⟨m1.trans m2, fun r hr a b => by rw [g2 r hr a, g1 r hr b]⟩
  unfold sourceThenLoc at h
  split at h
  · split at h
    · cases h
    · exact initial h
    · exact modified h
  · exact initial h

/-- Reading a word operand only steps registers and draws free values. -/
theorem readOperandWord_moved {o : Operand} {s t : State} {v : Word} (h : readOperandWord o s = .ok v t) :
    Moved s t ∧ ∀ r, r ≠ .r7 → ¬ o.Steps r → t.reg r = s.reg r := by
  obtain ⟨l, s1, h1, h2⟩ := Res.bind_eq_ok.mp h
  have hd := readLocWord_drawn h2
  exact ⟨(resolve_moved h1).1.trans hd.moved, fun r hr hs => by rw [hd.reg, (resolve_moved h1).2 r hr hs]⟩

/-- Reading a byte operand only steps registers and draws free values. -/
theorem readOperandByte_moved {o : Operand} {s t : State} {v : Byte} (h : readOperandByte o s = .ok v t) :
    Moved s t ∧ ∀ r, r ≠ .r7 → ¬ o.Steps r → t.reg r = s.reg r := by
  obtain ⟨l, s1, h1, h2⟩ := Res.bind_eq_ok.mp h
  have hd := readLocByte_drawn h2
  exact ⟨(resolve_moved h1).1.trans hd.moved, fun r hr hs => by rw [hd.reg, (resolve_moved h1).2 r hr hs]⟩

theorem sourceDestWord_moved {src dst : Operand} {s t : State} {p : Word × Loc}
    (h : sourceDestWord src dst s = .ok p t) :
    Moved s t ∧ ∀ r, r ≠ .r7 → ¬ src.Steps r → ¬ dst.Steps r → t.reg r = s.reg r :=
  sourceThenLoc_moved (fun _ _ _ => readOperandWord_moved) h

theorem sourceDestByte_moved {src dst : Operand} {s t : State} {p : Byte × Loc}
    (h : sourceDestByte src dst s = .ok p t) :
    Moved s t ∧ ∀ r, r ≠ .r7 → ¬ src.Steps r → ¬ dst.Steps r → t.reg r = s.reg r :=
  sourceThenLoc_moved (fun _ _ _ => readOperandByte_moved) h

/-- What a read-modify-write word instruction does on an operand that can be read and written (R155). -/
theorem modifyWord_of_ready {f : Word → Flags → Word × Flags} {o : Operand} {s s1 s2 : State} {l : Loc} {d : Word}
    (h1 : resolve .word o s = .ok l s1) (h2 : readLocWord l s1 = .ok d s2) (h3 : WordReady s2 l) :
    modifyWord f o s = .ok () ((s2.putLocWord l (f d s.flags).1).setFlags (f d s.flags).2) := by
  have hf : s2.flags = s.flags := ((resolve_moved h1).1.trans (readLocWord_drawn h2).moved).flags
  simp only [modifyWord, h1, h2, Res.bind_ok, hf, writeLocWord_eq_ok.mpr ⟨h3, rfl⟩]

/-- What a read-modify-write byte instruction does on an operand that can be read and written (R155). -/
theorem modifyByte_of_ready {f : Byte → Flags → Byte × Flags} {o : Operand} {s s1 s2 : State} {l : Loc} {d : Byte}
    (h1 : resolve .byte o s = .ok l s1) (h2 : readLocByte l s1 = .ok d s2) (h3 : ByteReady s2 l) :
    modifyByte f o s =
      .ok () ((s2.putLocByte l (f d s.flags).1 (keptHighByte s2 l (f d s.flags).1)).setFlags (f d s.flags).2) := by
  have hf : s2.flags = s.flags := ((resolve_moved h1).1.trans (readLocByte_drawn h2).moved).flags
  simp only [modifyByte, h1, h2, Res.bind_ok, hf, writeLocByte_eq_ok.mpr ⟨h3, rfl⟩]

/-- What a write-only word instruction does on a destination that can be written (R38). -/
theorem storeOperandWord_of_ready {v : Word} {f : Flags} {o : Operand} {s s1 : State} {l : Loc}
    (h1 : resolve .word o s = .ok l s1) (h3 : WordReady s1 l) :
    storeOperandWord v f o s = .ok () ((s1.putLocWord l v).setFlags f) := by
  simp only [storeOperandWord, h1, Res.bind_ok, writeLocWord_eq_ok.mpr ⟨h3, rfl⟩]

/-- What a write-only byte instruction does on a destination that can be written (R38). -/
theorem storeOperandByte_of_ready {v : Byte} {f : Flags} {o : Operand} {s s1 : State} {l : Loc}
    (h1 : resolve .byte o s = .ok l s1) (h3 : ByteReady s1 l) :
    storeOperandByte v f o s = .ok () ((s1.putLocByte l v (keptHighByte s1 l v)).setFlags f) := by
  simp only [storeOperandByte, h1, Res.bind_ok, writeLocByte_eq_ok.mpr ⟨h3, rfl⟩]

/-- What a double-operand word instruction does on operands that can be read and written (R84). -/
theorem combineWord_of_ready {f : Word → Word → Flags → Word × Flags} {src dst : Operand} {s s1 s2 : State} {l : Loc}
    {v d : Word} (h1 : sourceDestWord src dst s = .ok (v, l) s1) (h2 : readLocWord l s1 = .ok d s2)
    (h3 : WordReady s2 l) :
    combineWord f src dst s = .ok () ((s2.putLocWord l (f v d s.flags).1).setFlags (f v d s.flags).2) := by
  have hf : s2.flags = s.flags := ((sourceDestWord_moved h1).1.trans (readLocWord_drawn h2).moved).flags
  simp only [combineWord, h1, h2, Res.bind_ok, hf, writeLocWord_eq_ok.mpr ⟨h3, rfl⟩]

/-- What a double-operand byte instruction does on operands that can be read and written (R84). -/
theorem combineByte_of_ready {f : Byte → Byte → Flags → Byte × Flags} {src dst : Operand} {s s1 s2 : State} {l : Loc}
    {v d : Byte} (h1 : sourceDestByte src dst s = .ok (v, l) s1) (h2 : readLocByte l s1 = .ok d s2)
    (h3 : ByteReady s2 l) :
    combineByte f src dst s =
      .ok () ((s2.putLocByte l (f v d s.flags).1 (keptHighByte s2 l (f v d s.flags).1)).setFlags (f v d s.flags).2) := by
  have hf : s2.flags = s.flags := ((sourceDestByte_moved h1).1.trans (readLocByte_drawn h2).moved).flags
  simp only [combineByte, h1, h2, Res.bind_ok, hf, writeLocByte_eq_ok.mpr ⟨h3, rfl⟩]

/-- What a comparing word instruction does on operands that can be read. -/
theorem compareWord_of_ready {f : Word → Word → Flags → Flags} {src dst : Operand} {s s1 s2 : State} {l : Loc}
    {v d : Word} (h1 : sourceDestWord src dst s = .ok (v, l) s1) (h2 : readLocWord l s1 = .ok d s2) :
    compareWord f src dst s = .ok () (s2.setFlags (f v d s.flags)) := by
  have hf : s2.flags = s.flags := ((sourceDestWord_moved h1).1.trans (readLocWord_drawn h2).moved).flags
  simp only [compareWord, h1, h2, Res.bind_ok, hf]

/-- What a comparing byte instruction does on operands that can be read. -/
theorem compareByte_of_ready {f : Byte → Byte → Flags → Flags} {src dst : Operand} {s s1 s2 : State} {l : Loc}
    {v d : Byte} (h1 : sourceDestByte src dst s = .ok (v, l) s1) (h2 : readLocByte l s1 = .ok d s2) :
    compareByte f src dst s = .ok () (s2.setFlags (f v d s.flags)) := by
  have hf : s2.flags = s.flags := ((sourceDestByte_moved h1).1.trans (readLocByte_drawn h2).moved).flags
  simp only [compareByte, h1, h2, Res.bind_ok, hf]

/-! ## The outcomes of the statements -/

/-- The parameters of a sound state let every flag and T be set (R16). -/
theorem Params.wf_mask {p : Params} (h : p.wf = true) : p.psMask &&& 0o37#16 = 0o37#16 := by
  simp only [Params.wf, Bool.and_eq_true, decide_eq_true_eq] at h
  exact h.1.2

/-- What follows from the state a storing word instruction ends in. -/
theorem wordOutcome_of_next {i : Instr} {s s2 : State} {fields : List Operand} {l : Loc} {r : Word} {f : Flags}
    (hi : s.Inv) (hm : Moved s s2) (hg : ∀ q, q ≠ .r7 → (∀ o ∈ fields, ¬ o.Steps q) → s2.reg q = s.reg q)
    (hr : WordReady s2 l) (he : exec i s = .next ((s2.putLocWord l r).setFlags f)) :
    WordOutcome i s s2 fields l r f := by
  have hp : (s2.putLocWord l r).params = s.params := by rw [State.putLocWord_params, hm.params]
  have hst := wordStored_putLocWord r hr
  refine ⟨_, he, hst.from hm rfl (fun q => State.reg_setFlags _ _ _),
    fun q hq => by rw [State.reg_setFlags, State.reg_putLocWord _ _ _ _ hq],
    fun q h7 hl hs => ?_, State.flags_setFlags _ _ (hp ▸ Params.wf_mask hi.1), ?_, ?_⟩
  · rw [State.reg_setFlags, State.reg_putLocWord _ _ _ _ (fun e => hl (by rw [e])), hg q h7 hs]
  · have hps : (s2.putLocWord l r).ps = s.ps := by rw [State.putLocWord_ps, hm.ps]
    rw [SamePsButFlags, State.setFlags_rest _ _ (by rw [hps, hp]; exact hi.2.2.2.1), hps]
  · refine ⟨(State.putLocWord_transfers s2 l r).trans hm.transfers, ?_⟩
    rw [State.putLocWord_eq, hm.eq]; exact ⟨rfl, rfl, rfl, rfl, rfl, rfl, rfl⟩

/-- What follows from the state a storing byte instruction ends in. -/
theorem byteOutcome_of_next {i : Instr} {s s2 : State} {fields : List Operand} {l : Loc} {b : Byte} {v : Word} {f : Flags}
    (hi : s.Inv) (hm : Moved s s2) (hg : ∀ q, q ≠ .r7 → (∀ o ∈ fields, ¬ o.Steps q) → s2.reg q = s.reg q)
    (he : exec i s = .next ((s2.putLocByte l b v).setFlags f)) : ByteOutcome i s s2 fields l b v f := by
  have hp : (s2.putLocByte l b v).params = s.params := by rw [State.putLocByte_params, hm.params]
  have hst := byteStored_putLocByte s2 l b v
  refine ⟨_, he, hst.from hm rfl (fun q => State.reg_setFlags _ _ _),
    fun q hq => by rw [State.reg_setFlags, State.reg_putLocByte _ _ _ _ _ hq],
    fun q h7 hl hs => ?_, State.flags_setFlags _ _ (hp ▸ Params.wf_mask hi.1), ?_, ?_⟩
  · rw [State.reg_setFlags, State.reg_putLocByte _ _ _ _ _ (fun e => hl (by rw [e])), hg q h7 hs]
  · have hps : (s2.putLocByte l b v).ps = s.ps := by rw [State.putLocByte_ps, hm.ps]
    rw [SamePsButFlags, State.setFlags_rest _ _ (by rw [hps, hp]; exact hi.2.2.2.1), hps]
  · refine ⟨(State.putLocByte_transfers s2 l b v).trans hm.transfers, ?_⟩
    rw [State.putLocByte_eq, hm.eq]; exact ⟨rfl, rfl, rfl, rfl, rfl, rfl, rfl⟩

/-- What follows from the state a comparing or testing instruction ends in. -/
theorem flagOutcome_of_next {i : Instr} {s s2 : State} {fields : List Operand} {f : Flags} (hi : s.Inv)
    (hm : Moved s s2) (hg : ∀ q, q ≠ .r7 → (∀ o ∈ fields, ¬ o.Steps q) → s2.reg q = s.reg q)
    (he : exec i s = .next (s2.setFlags f)) : FlagOutcome i s s2 fields f := by
  refine ⟨_, he, hm.memory, fun q => State.reg_setFlags s2 f q,
    fun q h7 _ hs => by rw [State.reg_setFlags, hg q h7 hs],
    State.flags_setFlags _ _ (hm.params ▸ Params.wf_mask hi.1), ?_, ?_⟩
  · rw [SamePsButFlags, State.setFlags_rest _ _ (by rw [hm.ps, hm.params]; exact hi.2.2.2.1), hm.ps]
  · refine ⟨hm.transfers, ?_⟩
    rw [hm.eq]; exact ⟨rfl, rfl, rfl, rfl, rfl, rfl, rfl⟩

end Sys2Proof.Machine
end

