-- ==== Sys2Proof/Laws/Cycle.lean ====
section
/-! SUPPORT. The boundary between instructions, event by event: when nothing happens, and what a boundary that ends in a
next state passed through. -/

namespace Sys2Proof.Machine

/-! ## Sequencing -/

@[simp] theorem onNext_next (s : State) (k : State → Out) : onNext (.next s) k = k s := rfl

@[simp] theorem onNext_fault (f : Fault) (k : State → Out) : onNext (.fault f) k = .fault f := rfl

@[simp] theorem onNext_refused (r : Refusal) (k : State → Out) : onNext (.refused r) k = .refused r := rfl

/-- A sequence of events ends in a next state when each of them does. -/
theorem onNext_eq_next {x : Out} {k : State → Out} {t : State} :
    onNext x k = .next t ↔ ∃ s, x = .next s ∧ k s = .next t := by
  cases x <;> simp [onNext]

/-- A halted machine takes no event (R203). -/
theorem unlessHalted_of_halted {k : State → Out} {s : State} (h : s.run = .halted) : unlessHalted k s = .next s := by
  simp [unlessHalted, h]

/-- A running or waiting machine takes the event. -/
theorem unlessHalted_of_ne {k : State → Out} {s : State} (h : s.run ≠ .halted) : unlessHalted k s = k s := by
  unfold unlessHalted
  cases hr : s.run <;> simp_all

/-- An event that changes nothing changes nothing, halted or not. -/
theorem unlessHalted_next {k : State → Out} {s : State} (h : k s = .next s) : unlessHalted k s = .next s := by
  by_cases hr : s.run = .halted
  · exact unlessHalted_of_halted hr
  · rw [unlessHalted_of_ne hr, h]

/-! ## Events that do not happen -/

/-- With no trace trap armed the check does nothing (R243). -/
theorem traceCheck_of_not {s : State} (h : s.traceArmed = false) : traceCheck s = .next s := by
  simp [traceCheck, h]

/-- With no power-fail event the check does nothing (R242). -/
theorem powerFailCheck_of_not {s : State} (h : s.powerFail = false) : powerFailCheck s = .next s := by
  simp [powerFailCheck, h]

/-- With no console request the check does nothing (R242). -/
theorem haltCheck_of_not {s : State} (h : s.haltRequest = false) : haltCheck s = .next s := by
  simp [haltCheck, h]

/-- With no request to choose, none is accepted (R245). -/
theorem acceptInterrupts_of_none {s : State} (h : chooseRequest s = none) (k : Nat) : acceptInterrupts k s = .next s := by
  cases k with
  | zero => rfl
  | succ k => exact unlessHalted_next (by simp [h])

/-! ## A boundary that ends in a next state -/

/-- The states a boundary passes through (R242). -/
theorem boundary_next {s t : State} (h : boundary s = .next t) :
    ∃ s1 s2 s3, unlessHalted traceCheck s = .next s1 ∧ unlessHalted powerFailCheck s1 = .next s2 ∧
      unlessHalted haltCheck s2 = .next s3 ∧ acceptInterrupts s3.pending.length s3 = .next t := by
  obtain ⟨s1, h1, h⟩ := onNext_eq_next.mp h
  obtain ⟨s2, h2, h⟩ := onNext_eq_next.mp h
  obtain ⟨s3, h3, h⟩ := onNext_eq_next.mp h
  exact ⟨s1, s2, s3, h1, h2, h3, h⟩

/-- What is true before an event, and after it whenever it happens, is true after it, halted or not. -/
theorem unlessHalted_keeps {P : State → Prop} {k : State → Out} {s t : State} (hs : P s)
    (hk : s.run ≠ .halted → k s = .next t → P t) (h : unlessHalted k s = .next t) : P t := by
  by_cases hr : s.run = .halted
  · rw [unlessHalted_of_halted hr] at h; cases h; exact hs
  · rw [unlessHalted_of_ne hr] at h; exact hk hr h

/-- What every acceptance of a request keeps is kept by accepting interrupts until none is acceptable (R245). -/
theorem acceptInterrupts_keeps {P : State → Prop}
    (hacc : ∀ r n s t, s.run ≠ .halted → P s → acceptRequest r n s = .next t → P t) (k : Nat) :
    ∀ {s t : State}, P s → acceptInterrupts k s = .next t → P t := by
  induction k with
  | zero => intro s t hs h; cases h; exact hs
  | succ k ih =>
    intro s t hs h
    refine unlessHalted_keeps hs (fun hr h => ?_) h
    split at h
    · cases h; exact hs
    · obtain ⟨u, h1, h2⟩ := onNext_eq_next.mp h
      exact ih (hacc _ _ _ _ hr hs h1) h2

/-! ## Steps -/

/-- A step of a running machine: the instruction fetched, or the exception of its fetch, and the boundary after it. -/
theorem step_of_running {s : State} (h : s.run = .running) :
    step s = match fetchInstr s with
      | .ok i t => settle (exec i t)
      | .exn e t => settle (raise e t)
      | .fault f => .fault f
      | .refused r => .refused r := by
  cases s
  cases h
  rfl

/-- A step that ends in a next state ran an instruction, took the exception of its fetch, or ended a wait (R23). -/
theorem step_next {s t : State} (h : step s = .next t) :
    (s.run = .running ∧ ∃ i u, fetchInstr s = .ok i u ∧ settle (exec i u) = .next t) ∨
      (s.run = .running ∧ ∃ e u, fetchInstr s = .exn e u ∧ settle (raise e u) = .next t) ∨
      (s.run = .waiting ∧ boundary s = .next t ∧ t.run ≠ .waiting) := by
  cases hr : s.run with
  | running =>
    rw [step_of_running hr] at h
    cases hf : fetchInstr s with
    | ok i u => rw [hf] at h; exact .inl ⟨rfl, i, u, rfl, h⟩
    | exn e u => rw [hf] at h; exact .inr (.inl ⟨rfl, e, u, rfl, h⟩)
    | fault f => rw [hf] at h; cases h
    | refused r => rw [hf] at h; cases h
  | waiting =>
    simp only [step, hr, waitingStep] at h
    obtain ⟨u, h1, h2⟩ := onNext_eq_next.mp h
    refine .inr (.inr ⟨rfl, ?_⟩)
    cases hu : u.run <;> simp only [hu] at h2 <;> cases h2
    · exact ⟨h1, by rw [hu]; decide⟩
    · exact ⟨h1, by rw [hu]; decide⟩
  | halted => simp only [step, hr, haltedStep] at h; cases h

/-- An instruction settles in a next state when it ends in one and the boundary after it does. -/
theorem settle_next {x : Out} {t : State} : settle x = .next t ↔ ∃ s, x = .next s ∧ boundary s = .next t :=
  onNext_eq_next

/-- Storing bytes one after another keeps the canonical form of memory. -/
theorem State.wf_storeBytes {s : State} (a : Word) (bs : List Byte) (h : s.mem.wf = true) :
    (s.storeBytes a bs).mem.wf = true := by
  induction bs generalizing s a with
  | nil => exact h
  | cons b bs ih => exact ih _ (State.wf_storeByte a b h)

end Sys2Proof.Machine
end

