-- ==== Sys2Proof/Laws/Keeps.lean ====
section
/-! SUPPORT. What every part of an instruction keeps, proved once for any property of states: `Passing` for the parts
that write no location (registers, the count of free values and the devices' turns change), `Closed` for all of them (the
condition codes, bytes of RAM and the transfers waiting change too). The state in which a part raises an exception has every
`Passing` property, whichever part it is (R238). -/

namespace Sys2Proof.Machine

/-- A property kept by every update that a part of an instruction makes before anything in it can raise (R238). -/
structure Passing (P : State → Prop) : Prop where
  regs : ∀ s g, P s → P { s with regs := g }
  draws : ∀ s n, P s → P { s with draws := n }
  busTurn : ∀ s, P s → P s.busTurn

/-- A property kept by every update that a part of an instruction makes, but for the writes of the whole PS: those of MTPS,
of a trap return and of trap entry. -/
structure Closed (P : State → Prop) : Prop where
  regs : ∀ s g, P s → P { s with regs := g }
  draws : ∀ s n, P s → P { s with draws := n }
  flags : ∀ s f, P s → P (s.setFlags f)
  transfers : ∀ s xs, xs <:+ s.transfers → P s → P { s with transfers := xs }
  store : ∀ (s : State) (a : Word) (b : Byte), region s.params a 1 = .ram → P s → P (s.storeByte a b)

/-- The state a part of an instruction leaves, when it leaves one, has a property. -/
def Res.Holds {α : Type} (P : State → Prop) : Res α → Prop
  | .ok _ s => P s
  | .exn _ s => P s
  | .fault _ => True
  | .refused _ => True

/-- The state in which a part of an instruction raises an exception, when it raises one, has a property. -/
def Res.Raises {α : Type} (P : State → Prop) : Res α → Prop
  | .ok _ _ => True
  | .exn _ s => P s
  | .fault _ => True
  | .refused _ => True

/-- The next state of an outcome, when there is one, has a property. -/
def OutHolds (P : State → Prop) : Out → Prop
  | .next s => P s
  | .fault _ => True
  | .refused _ => True

theorem OutHolds.of_next {P : State → Prop} {x : Out} {t : State} (h : OutHolds P x) (hx : x = .next t) : P t := by
  rw [hx] at h; exact h

/-- A sequence keeps what its parts keep. -/
theorem Res.Holds.bind {α β : Type} {P : State → Prop} {x : Res α} {k : α → State → Res β} (hx : x.Holds P)
    (hk : ∀ a s, P s → (k a s).Holds P) : (x.bind k).Holds P := by
  cases x with
  | ok a s => exact hk a s hx
  | exn e s => exact hx
  | fault f => trivial
  | refused r => trivial

theorem Res.Raises.of_exn {α : Type} {P : State → Prop} {x : Res α} {e : Exn} {u : State} (h : x.Raises P)
    (hx : x = .exn e u) : P u := by
  rw [hx] at h; exact h

theorem Res.Holds.raises {α : Type} {P : State → Prop} {x : Res α} (h : x.Holds P) : x.Raises P := by
  cases x with
  | exn e s => exact h
  | _ => trivial

/-- A sequence raises where its first part does, or in the second from the state the first leaves. -/
theorem Res.Holds.bind_raises {α β : Type} {P : State → Prop} {x : Res α} {k : α → State → Res β} (hx : x.Holds P)
    (hk : ∀ a s, P s → (k a s).Raises P) : (x.bind k).Raises P := by
  cases x with
  | ok a s => exact hk a s hx
  | exn e s => exact hx
  | fault f => trivial
  | refused r => trivial

/-- What comes after the last access raises nothing. -/
theorem Res.Raises.bind_ok {α β : Type} {P : State → Prop} {x : Res α} {b : α → State → β} {t : α → State → State}
    (hx : x.Raises P) : (x.bind fun a s => .ok (b a s) (t a s)).Raises P := by
  cases x with
  | exn e s => exact hx
  | _ => trivial

/-! ## The parts that write no location, and where the others raise -/

namespace Passing

variable {P : State → Prop} (hP : Passing P)
include hP

theorem setReg {s : State} (h : P s) (r : Reg) (v : Word) : P (s.setReg r v) := hP.regs _ _ h

omit hP in
theorem ramByte {s : State} (h : P s) (a : Word) : (ramByte a s).Holds P := by
  unfold Machine.ramByte; split
  · exact h
  · trivial

theorem readByte {s : State} (h : P s) (a : Word) : (readByte a s).Holds P := by
  unfold Machine.readByte Machine.readByteNow
  split
  · exact ramByte (hP.busTurn _ h) a
  · exact hP.draws _ _ (hP.busTurn _ h)
  · exact hP.busTurn _ h

theorem readWord {s : State} (h : P s) (a : Word) : (readWord a s).Holds P := by
  unfold Machine.readWord Machine.readWordNow
  split
  · exact h
  · split
    · exact (ramByte (hP.busTurn _ h) a).bind fun _ s1 h1 => (ramByte h1 _).bind fun _ _ h2 => h2
    · exact hP.draws _ _ (hP.busTurn _ h)
    · exact hP.busTurn _ h

theorem fetch {s : State} (h : P s) : (fetch s).Holds P :=
  (hP.readWord h _).bind fun _ _ h1 => hP.setReg h1 _ _

theorem pop {s : State} (h : P s) : (pop s).Holds P :=
  (hP.readWord h _).bind fun _ _ h1 => hP.setReg h1 _ _

theorem resolve {s : State} (h : P s) (n : Size) (o : Operand) : (resolve n o s).Holds P := by
  unfold Machine.resolve
  split
  · exact h
  · exact h
  · exact hP.setReg h _ _
  · exact (hP.readWord h _).bind fun _ _ h1 => hP.setReg h1 _ _
  · exact hP.setReg h _ _
  · exact (hP.readWord (hP.setReg h _ _) _).bind fun _ _ h1 => h1
  · exact (hP.fetch h).bind fun _ _ h1 => h1
  · exact (hP.fetch h).bind fun _ _ h1 => (hP.readWord h1 _).bind fun _ _ h2 => h2

theorem readLocWord {s : State} (h : P s) (l : Loc) : (readLocWord l s).Holds P := by
  cases l with
  | reg r => exact h
  | mem a => exact hP.readWord h a

theorem readLocByte {s : State} (h : P s) (l : Loc) : (readLocByte l s).Holds P := by
  cases l with
  | reg r => exact h
  | mem a => exact hP.readByte h a

theorem readOperandWord {s : State} (h : P s) (o : Operand) : (readOperandWord o s).Holds P :=
  (hP.resolve h _ o).bind fun l _ h1 => hP.readLocWord h1 l

theorem readOperandByte {s : State} (h : P s) (o : Operand) : (readOperandByte o s).Holds P :=
  (hP.resolve h _ o).bind fun l _ h1 => hP.readLocByte h1 l

theorem sourceThenLoc {α : Type} {s : State} (h : P s) (n : Size) (read : State → Res α)
    (hread : ∀ t, P t → (read t).Holds P) (src dst : Operand) : (sourceThenLoc n read src dst s).Holds P := by
  have initial := (hread s h).bind (k := fun v s1 => (Machine.resolve n dst s1).bind fun l s2 => .ok (v, l) s2)
    fun _ _ h1 => (hP.resolve h1 n dst).bind fun _ _ h2 => h2
  have modified := (hP.resolve h n dst).bind (k := fun l s1 => (read s1).bind fun v s2 => .ok (v, l) s2)
    fun _ _ h1 => (hread _ h1).bind fun _ _ h2 => h2
  unfold Machine.sourceThenLoc
  split
  · split
    · trivial
    · exact initial
    · exact modified
  · exact initial

theorem sourceDestWord {s : State} (h : P s) (src dst : Operand) : (sourceDestWord src dst s).Holds P :=
  hP.sourceThenLoc h _ _ (fun _ ht => hP.readOperandWord ht src) src dst

theorem sourceDestByte {s : State} (h : P s) (src dst : Operand) : (sourceDestByte src dst s).Holds P :=
  hP.sourceThenLoc h _ _ (fun _ ht => hP.readOperandByte ht src) src dst

theorem jumpAddress {s : State} (h : P s) (o : Operand) : (jumpAddress o s).Holds P := by
  unfold Machine.jumpAddress
  split
  · exact h
  · exact (hP.resolve h _ o).bind fun l _ h1 => by cases l <;> exact h1

theorem writeWord_raises {s : State} (h : P s) (a w : Word) : (writeWord a w s).Raises P := by
  unfold Machine.writeWord Machine.writeWordNow
  split
  · exact h
  · split
    · trivial
    · trivial
    · exact hP.busTurn _ h

theorem writeByte_raises {s : State} (h : P s) (a : Word) (b : Byte) : (writeByte a b s).Raises P := by
  unfold Machine.writeByte Machine.writeByteNow
  split
  · trivial
  · trivial
  · exact hP.busTurn _ h

theorem push_raises {s : State} (h : P s) (v : Word) : (push v s).Raises P :=
  hP.writeWord_raises (hP.setReg h _ _) _ _

theorem writeLocWord_raises {s : State} (h : P s) (l : Loc) (v : Word) : (writeLocWord l v s).Raises P := by
  cases l with
  | reg r => trivial
  | mem a => exact hP.writeWord_raises h a v

theorem writeLocByte_raises {s : State} (h : P s) (l : Loc) (v : Byte) : (writeLocByte l v s).Raises P := by
  cases l with
  | reg r => trivial
  | mem a => exact hP.writeByte_raises h a v

theorem writeLocSext_raises {s : State} (h : P s) (l : Loc) (v : Byte) : (writeLocSext l v s).Raises P := by
  cases l with
  | reg r => trivial
  | mem a => exact hP.writeByte_raises h a v

theorem modifyWord_raises {s : State} (h : P s) (f : Word → Flags → Word × Flags) (o : Operand) :
    (modifyWord f o s).Raises P :=
  (hP.resolve h _ o).bind_raises fun l _ h1 => (hP.readLocWord h1 l).bind_raises fun _ _ h2 =>
    (hP.writeLocWord_raises h2 l _).bind_ok

theorem modifyByte_raises {s : State} (h : P s) (f : Byte → Flags → Byte × Flags) (o : Operand) :
    (modifyByte f o s).Raises P :=
  (hP.resolve h _ o).bind_raises fun l _ h1 => (hP.readLocByte h1 l).bind_raises fun _ _ h2 =>
    (hP.writeLocByte_raises h2 l _).bind_ok

theorem storeOperandWord_raises {s : State} (h : P s) (v : Word) (f : Flags) (o : Operand) :
    (storeOperandWord v f o s).Raises P :=
  (hP.resolve h _ o).bind_raises fun l _ h1 => (hP.writeLocWord_raises h1 l _).bind_ok

theorem storeOperandByte_raises {s : State} (h : P s) (v : Byte) (f : Flags) (o : Operand) :
    (storeOperandByte v f o s).Raises P :=
  (hP.resolve h _ o).bind_raises fun l _ h1 => (hP.writeLocByte_raises h1 l _).bind_ok

theorem combineWord_raises {s : State} (h : P s) (f : Word → Word → Flags → Word × Flags) (src dst : Operand) :
    (combineWord f src dst s).Raises P :=
  (hP.sourceDestWord h src dst).bind_raises fun p _ h1 => (hP.readLocWord h1 p.2).bind_raises fun _ _ h2 =>
    (hP.writeLocWord_raises h2 p.2 _).bind_ok

theorem combineByte_raises {s : State} (h : P s) (f : Byte → Byte → Flags → Byte × Flags) (src dst : Operand) :
    (combineByte f src dst s).Raises P :=
  (hP.sourceDestByte h src dst).bind_raises fun p _ h1 => (hP.readLocByte h1 p.2).bind_raises fun _ _ h2 =>
    (hP.writeLocByte_raises h2 p.2 _).bind_ok

theorem compareWord_raises {s : State} (h : P s) (f : Word → Word → Flags → Flags) (src dst : Operand) :
    (compareWord f src dst s).Raises P :=
  (hP.sourceDestWord h src dst).bind_raises fun p _ h1 => (hP.readLocWord h1 p.2).raises.bind_ok

theorem compareByte_raises {s : State} (h : P s) (f : Byte → Byte → Flags → Flags) (src dst : Operand) :
    (compareByte f src dst s).Raises P :=
  (hP.sourceDestByte h src dst).bind_raises fun p _ h1 => (hP.readLocByte h1 p.2).raises.bind_ok

end Passing

/-! ### The state in which an instruction raises an exception -/

theorem AfterSteps.refl (s : State) : AfterSteps s s 0 := rfl

/-- What an instruction does before anything in it can raise leaves a state `AfterSteps`, so that it raises in one. -/
theorem AfterSteps.passing (s : State) : Passing fun u => ∃ n, AfterSteps s u n where
  regs u g := fun ⟨n, h⟩ => ⟨n, by rw [AfterSteps] at h ⊢; rw [h]⟩
  draws u k := fun ⟨n, h⟩ => ⟨n, by rw [AfterSteps] at h ⊢; rw [h]⟩
  busTurn u := fun ⟨n, h⟩ => ⟨n + 1, by
    rw [AfterSteps] at h
    have ht : u.busTurn = { u with mem := _, transfers := _ } :=
      State.busTurn_congr (s := State.busTurn^[n] s) (by rw [h]) (by rw [h]) (by rw [h])
    rw [AfterSteps, ht, Function.iterate_succ_apply', State.busTurn_eq (State.busTurn^[n] s), h]⟩

/-- It differs from the first in the registers, the count of free values, and what devices did. -/
theorem AfterSteps.frame {s u : State} {n : Nat} (h : AfterSteps s u n) :
    u.ps = s.ps ∧ SameMemory s u ∧ SameControl s u := by
  have turns : ∀ n, (State.busTurn^[n] s).ps = s.ps ∧ SameMemory s (State.busTurn^[n] s) ∧
      SameControl s (State.busTurn^[n] s) := by
    intro n
    induction n with
    | zero => exact ⟨rfl, SameMemory.refl s, by simp [SameControl]⟩
    | succ n ih =>
      obtain ⟨hp, hm, hx, hc⟩ := ih
      rw [Function.iterate_succ_apply']
      exact ⟨by simp [hp], hm.trans hx (busTurn_sameMemory _),
        (State.busTurn_transfers _).trans hx, by simpa using hc⟩
  rw [h]
  exact turns n

/-! ## All of them -/

namespace Closed

variable {P : State → Prop} (hP : Closed P)
include hP

theorem setReg {s : State} (h : P s) (r : Reg) (v : Word) : P (s.setReg r v) := hP.regs _ _ h

theorem setFlags {s : State} (h : P s) (f : Flags) : P (s.setFlags f) := hP.flags _ _ h

/-! ## Memory accesses -/

theorem deviceStoreAll {s : State} (h : P s) (ds : List DeviceStore) : P (s.deviceStoreAll ds) := by
  induction ds generalizing s with
  | nil => exact h
  | cons d ds ih =>
    refine ih ?_
    unfold State.deviceStore
    split_ifs with hd
    · exact hP.store _ _ _ (region_eq_ram.mpr (by omega)) h
    · exact h

/-- What every update keeps is kept by a turn of the devices (R44). -/
theorem busTurn {s : State} (h : P s) : P s.busTurn := by
  cases hx : s.transfers with
  | nil => rwa [State.busTurn_quiet hx]
  | cons g gs =>
    rw [State.busTurn_cons hx]
    refine hP.transfers _ _ ?_ (hP.deviceStoreAll h g)
    rw [State.deviceStoreAll_eq, hx]
    exact List.suffix_cons g gs

theorem passing : Passing P where
  regs := hP.regs
  draws := hP.draws
  busTurn _ h := hP.busTurn h

/-- A word of RAM at an even address is two bytes of RAM. -/
theorem putWord {s : State} (h : P s) {a : Word} (he : isOdd a = false) (w : Word) : P (s.putWord a w) := by
  unfold State.putWord
  split_ifs with hr
  · rw [region_eq_ram] at hr
    refine hP.store _ _ _ ?_ (hP.store _ _ _ ?_ (hP.busTurn h))
    · rw [region_eq_ram, toNat_succ_of_even he, State.storeByte_params, State.busTurn_params]
      exact hr
    · rw [region_eq_ram, State.busTurn_params]; omega
  · exact hP.busTurn h

theorem putByte {s : State} (h : P s) (a : Word) (b : Byte) : P (s.putByte a b) := by
  unfold State.putByte
  split_ifs with hr
  · exact hP.store _ _ _ (by rw [State.busTurn_params]; exact hr) (hP.busTurn h)
  · exact hP.busTurn h

theorem writeWord {s : State} (h : P s) (a w : Word) : (writeWord a w s).Holds P := by
  cases hw : Machine.writeWord a w s with
  | ok u t => obtain ⟨⟨he, _⟩, rfl⟩ := writeWord_eq_ok.mp hw; exact hP.putWord h he w
  | exn e t =>
    unfold Machine.writeWord Machine.writeWordNow at hw
    split at hw
    · cases hw; exact h
    · split at hw <;> cases hw; exact hP.busTurn h
  | fault f => trivial
  | refused r => trivial

theorem writeByte {s : State} (h : P s) (a : Word) (b : Byte) : (writeByte a b s).Holds P := by
  cases hw : Machine.writeByte a b s with
  | ok u t => obtain ⟨_, rfl⟩ := writeByte_eq_ok.mp hw; exact hP.putByte h a b
  | exn e t =>
    unfold Machine.writeByte Machine.writeByteNow at hw
    split at hw <;> cases hw; exact hP.busTurn h
  | fault f => trivial
  | refused r => trivial

theorem push {s : State} (h : P s) (v : Word) : (push v s).Holds P := hP.writeWord (hP.setReg h _ _) _ _

theorem trapReturn (hps : ∀ s v, P s → P (s.writePs v)) {s : State} (h : P s) : (trapReturn s).Holds P :=
  (hP.passing.pop h).bind fun _ _ h1 => (hP.passing.pop (hP.setReg h1 _ _)).bind fun _ _ h2 => hps _ _ h2

/-! ## Operands -/

theorem writeLocWord {s : State} (h : P s) (l : Loc) (v : Word) : (writeLocWord l v s).Holds P := by
  cases l with
  | reg r => exact hP.setReg h _ _
  | mem a => exact hP.writeWord h a v

theorem writeLocByte {s : State} (h : P s) (l : Loc) (v : Byte) : (writeLocByte l v s).Holds P := by
  cases l with
  | reg r => exact hP.setReg h _ _
  | mem a => exact hP.writeByte h a v

theorem writeLocSext {s : State} (h : P s) (l : Loc) (v : Byte) : (writeLocSext l v s).Holds P := by
  cases l with
  | reg r => exact hP.setReg h _ _
  | mem a => exact hP.writeByte h a v

theorem modifyWord {s : State} (h : P s) (f : Word → Flags → Word × Flags) (o : Operand) : (modifyWord f o s).Holds P :=
  (hP.passing.resolve h _ o).bind fun l _ h1 => (hP.passing.readLocWord h1 l).bind fun _ _ h2 =>
    (hP.writeLocWord h2 l _).bind fun _ _ h3 => hP.setFlags h3 _

theorem modifyByte {s : State} (h : P s) (f : Byte → Flags → Byte × Flags) (o : Operand) : (modifyByte f o s).Holds P :=
  (hP.passing.resolve h _ o).bind fun l _ h1 => (hP.passing.readLocByte h1 l).bind fun _ _ h2 =>
    (hP.writeLocByte h2 l _).bind fun _ _ h3 => hP.setFlags h3 _

theorem storeOperandWord {s : State} (h : P s) (v : Word) (f : Flags) (o : Operand) :
    (storeOperandWord v f o s).Holds P :=
  (hP.passing.resolve h _ o).bind fun l _ h1 => (hP.writeLocWord h1 l _).bind fun _ _ h2 => hP.setFlags h2 _

theorem storeOperandByte {s : State} (h : P s) (v : Byte) (f : Flags) (o : Operand) :
    (storeOperandByte v f o s).Holds P :=
  (hP.passing.resolve h _ o).bind fun l _ h1 => (hP.writeLocByte h1 l _).bind fun _ _ h2 => hP.setFlags h2 _

theorem combineWord {s : State} (h : P s) (f : Word → Word → Flags → Word × Flags) (src dst : Operand) :
    (combineWord f src dst s).Holds P :=
  (hP.passing.sourceDestWord h src dst).bind fun p _ h1 => (hP.passing.readLocWord h1 p.2).bind fun _ _ h2 =>
    (hP.writeLocWord h2 p.2 _).bind fun _ _ h3 => hP.setFlags h3 _

theorem combineByte {s : State} (h : P s) (f : Byte → Byte → Flags → Byte × Flags) (src dst : Operand) :
    (combineByte f src dst s).Holds P :=
  (hP.passing.sourceDestByte h src dst).bind fun p _ h1 => (hP.passing.readLocByte h1 p.2).bind fun _ _ h2 =>
    (hP.writeLocByte h2 p.2 _).bind fun _ _ h3 => hP.setFlags h3 _

theorem compareWord {s : State} (h : P s) (f : Word → Word → Flags → Flags) (src dst : Operand) :
    (compareWord f src dst s).Holds P :=
  (hP.passing.sourceDestWord h src dst).bind fun p _ h1 => (hP.passing.readLocWord h1 p.2).bind fun _ _ h2 =>
    hP.setFlags h2 _

theorem compareByte {s : State} (h : P s) (f : Byte → Byte → Flags → Flags) (src dst : Operand) :
    (compareByte f src dst s).Holds P :=
  (hP.passing.sourceDestByte h src dst).bind fun p _ h1 => (hP.passing.readLocByte h1 p.2).bind fun _ _ h2 =>
    hP.setFlags h2 _

end Closed

/-- The treatment of an odd target changes no state (R202). -/
theorem evenTarget_holds {P : State → Prop} {s : State} (h : P s) (a : Word) : (evenTarget a s).Holds P := by
  unfold Machine.evenTarget
  split
  · split
    · exact h
    · exact h
  · exact h

end Sys2Proof.Machine
end

