-- ==== Sys2Proof/Laws/PerInstr.lean ====
section
/-! SUPPORT. A family of statements about every instruction as syntax: it has the word of its core instruction, and its
core instruction is well-formed, so the decoder can give it. -/

namespace Sys2Proof.Laws

/-- An instruction and its core instruction have one word, and the core instruction is well-formed (R68, R193). -/
def CoreWord.Statement (i : Instr) : Prop := encodeWord i = encodeWord i.core ∧ i.core.wellFormed = true

theorem CoreWord.halt : CoreWord.Statement .halt := ⟨rfl, rfl⟩

theorem CoreWord.wait : CoreWord.Statement .wait := ⟨rfl, rfl⟩

theorem CoreWord.rti : CoreWord.Statement .rti := ⟨rfl, rfl⟩

theorem CoreWord.unlisted000003 : CoreWord.Statement .unlisted000003 := ⟨rfl, rfl⟩

theorem CoreWord.bpt : CoreWord.Statement .bpt := ⟨rfl, rfl⟩

theorem CoreWord.reset : CoreWord.Statement .reset := ⟨rfl, rfl⟩

theorem CoreWord.unlisted000006 : CoreWord.Statement .unlisted000006 := ⟨rfl, rfl⟩

theorem CoreWord.unused000007 : CoreWord.Statement .unused000007 := ⟨rfl, rfl⟩

theorem CoreWord.unused000010 (x : BitVec 3) : CoreWord.Statement (.unused000010 x) := ⟨rfl, decide_eq_true rfl⟩

theorem CoreWord.unused000020 (x : BitVec 4) : CoreWord.Statement (.unused000020 x) := ⟨rfl, decide_eq_true rfl⟩

theorem CoreWord.unused000040 (x : BitVec 5) : CoreWord.Statement (.unused000040 x) := ⟨rfl, decide_eq_true rfl⟩

theorem CoreWord.jmp (dst : Operand) : CoreWord.Statement (.jmp dst) := ⟨rfl, decide_eq_true rfl⟩

theorem CoreWord.rts (reg : Reg) : CoreWord.Statement (.rts reg) := ⟨rfl, decide_eq_true rfl⟩

theorem CoreWord.unused000210 (x : BitVec 3) : CoreWord.Statement (.unused000210 x) := ⟨rfl, decide_eq_true rfl⟩

theorem CoreWord.unused000220 (x : BitVec 3) : CoreWord.Statement (.unused000220 x) := ⟨rfl, decide_eq_true rfl⟩

theorem CoreWord.unlisted00023x (n : BitVec 3) : CoreWord.Statement (.unlisted00023x n) := ⟨rfl, decide_eq_true rfl⟩

theorem CoreWord.clx (mask : BitVec 4) : CoreWord.Statement (.clx mask) := ⟨rfl, decide_eq_true rfl⟩

theorem CoreWord.sex (mask : BitVec 4) : CoreWord.Statement (.sex mask) := ⟨rfl, decide_eq_true rfl⟩

theorem CoreWord.nop240 : CoreWord.Statement .nop240 := ⟨rfl, rfl⟩

theorem CoreWord.clc : CoreWord.Statement .clc := ⟨rfl, rfl⟩

theorem CoreWord.clv : CoreWord.Statement .clv := ⟨rfl, rfl⟩

theorem CoreWord.clz : CoreWord.Statement .clz := ⟨rfl, rfl⟩

theorem CoreWord.cln : CoreWord.Statement .cln := ⟨rfl, rfl⟩

theorem CoreWord.ccc : CoreWord.Statement .ccc := ⟨rfl, rfl⟩

theorem CoreWord.nop260 : CoreWord.Statement .nop260 := ⟨rfl, rfl⟩

theorem CoreWord.sec : CoreWord.Statement .sec := ⟨rfl, rfl⟩

theorem CoreWord.sev : CoreWord.Statement .sev := ⟨rfl, rfl⟩

theorem CoreWord.sez : CoreWord.Statement .sez := ⟨rfl, rfl⟩

theorem CoreWord.sen : CoreWord.Statement .sen := ⟨rfl, rfl⟩

theorem CoreWord.scc : CoreWord.Statement .scc := ⟨rfl, rfl⟩

theorem CoreWord.swab (dst : Operand) : CoreWord.Statement (.swab dst) := ⟨rfl, decide_eq_true rfl⟩

theorem CoreWord.br (off8 : BitVec 8) : CoreWord.Statement (.br off8) := ⟨rfl, decide_eq_true rfl⟩

theorem CoreWord.bne (off8 : BitVec 8) : CoreWord.Statement (.bne off8) := ⟨rfl, decide_eq_true rfl⟩

theorem CoreWord.beq (off8 : BitVec 8) : CoreWord.Statement (.beq off8) := ⟨rfl, decide_eq_true rfl⟩

theorem CoreWord.bge (off8 : BitVec 8) : CoreWord.Statement (.bge off8) := ⟨rfl, decide_eq_true rfl⟩

theorem CoreWord.blt (off8 : BitVec 8) : CoreWord.Statement (.blt off8) := ⟨rfl, decide_eq_true rfl⟩

theorem CoreWord.bgt (off8 : BitVec 8) : CoreWord.Statement (.bgt off8) := ⟨rfl, decide_eq_true rfl⟩

theorem CoreWord.ble (off8 : BitVec 8) : CoreWord.Statement (.ble off8) := ⟨rfl, decide_eq_true rfl⟩

theorem CoreWord.jsr (reg : Reg) (dst : Operand) : CoreWord.Statement (.jsr reg dst) := ⟨rfl, decide_eq_true rfl⟩

theorem CoreWord.clr (dst : Operand) : CoreWord.Statement (.clr dst) := ⟨rfl, decide_eq_true rfl⟩

theorem CoreWord.com (dst : Operand) : CoreWord.Statement (.com dst) := ⟨rfl, decide_eq_true rfl⟩

theorem CoreWord.inc (dst : Operand) : CoreWord.Statement (.inc dst) := ⟨rfl, decide_eq_true rfl⟩

theorem CoreWord.dec (dst : Operand) : CoreWord.Statement (.dec dst) := ⟨rfl, decide_eq_true rfl⟩

theorem CoreWord.neg (dst : Operand) : CoreWord.Statement (.neg dst) := ⟨rfl, decide_eq_true rfl⟩

theorem CoreWord.adc (dst : Operand) : CoreWord.Statement (.adc dst) := ⟨rfl, decide_eq_true rfl⟩

theorem CoreWord.sbc (dst : Operand) : CoreWord.Statement (.sbc dst) := ⟨rfl, decide_eq_true rfl⟩

theorem CoreWord.tst (dst : Operand) : CoreWord.Statement (.tst dst) := ⟨rfl, decide_eq_true rfl⟩

theorem CoreWord.ror (dst : Operand) : CoreWord.Statement (.ror dst) := ⟨rfl, decide_eq_true rfl⟩

theorem CoreWord.rol (dst : Operand) : CoreWord.Statement (.rol dst) := ⟨rfl, decide_eq_true rfl⟩

theorem CoreWord.asr (dst : Operand) : CoreWord.Statement (.asr dst) := ⟨rfl, decide_eq_true rfl⟩

theorem CoreWord.asl (dst : Operand) : CoreWord.Statement (.asl dst) := ⟨rfl, decide_eq_true rfl⟩

theorem CoreWord.mark (nn : BitVec 6) : CoreWord.Statement (.mark nn) := ⟨rfl, decide_eq_true rfl⟩

theorem CoreWord.unused006500 (x : BitVec 6) : CoreWord.Statement (.unused006500 x) := ⟨rfl, decide_eq_true rfl⟩

theorem CoreWord.unused006600 (x : BitVec 6) : CoreWord.Statement (.unused006600 x) := ⟨rfl, decide_eq_true rfl⟩

theorem CoreWord.sxt (dst : Operand) : CoreWord.Statement (.sxt dst) := ⟨rfl, decide_eq_true rfl⟩

theorem CoreWord.unused007000 (x : BitVec 9) : CoreWord.Statement (.unused007000 x) := ⟨rfl, decide_eq_true rfl⟩

theorem CoreWord.mov (src : Operand) (dst : Operand) : CoreWord.Statement (.mov src dst) := ⟨rfl, decide_eq_true rfl⟩

theorem CoreWord.cmp (src : Operand) (dst : Operand) : CoreWord.Statement (.cmp src dst) := ⟨rfl, decide_eq_true rfl⟩

theorem CoreWord.bit (src : Operand) (dst : Operand) : CoreWord.Statement (.bit src dst) := ⟨rfl, decide_eq_true rfl⟩

theorem CoreWord.bic (src : Operand) (dst : Operand) : CoreWord.Statement (.bic src dst) := ⟨rfl, decide_eq_true rfl⟩

theorem CoreWord.bis (src : Operand) (dst : Operand) : CoreWord.Statement (.bis src dst) := ⟨rfl, decide_eq_true rfl⟩

theorem CoreWord.add (src : Operand) (dst : Operand) : CoreWord.Statement (.add src dst) := ⟨rfl, decide_eq_true rfl⟩

theorem CoreWord.mul (reg : Reg) (src : Operand) : CoreWord.Statement (.mul reg src) := ⟨rfl, decide_eq_true rfl⟩

theorem CoreWord.div (reg : Reg) (src : Operand) : CoreWord.Statement (.div reg src) := ⟨rfl, decide_eq_true rfl⟩

theorem CoreWord.ash (reg : Reg) (src : Operand) : CoreWord.Statement (.ash reg src) := ⟨rfl, decide_eq_true rfl⟩

theorem CoreWord.ashc (reg : Reg) (src : Operand) : CoreWord.Statement (.ashc reg src) := ⟨rfl, decide_eq_true rfl⟩

theorem CoreWord.xor (reg : Reg) (dst : Operand) : CoreWord.Statement (.xor reg dst) := ⟨rfl, decide_eq_true rfl⟩

theorem CoreWord.fadd (reg : Reg) : CoreWord.Statement (.fadd reg) := ⟨rfl, decide_eq_true rfl⟩

theorem CoreWord.fsub (reg : Reg) : CoreWord.Statement (.fsub reg) := ⟨rfl, decide_eq_true rfl⟩

theorem CoreWord.fmul (reg : Reg) : CoreWord.Statement (.fmul reg) := ⟨rfl, decide_eq_true rfl⟩

theorem CoreWord.fdiv (reg : Reg) : CoreWord.Statement (.fdiv reg) := ⟨rfl, decide_eq_true rfl⟩

theorem CoreWord.unused075040 (x : BitVec 5) : CoreWord.Statement (.unused075040 x) := ⟨rfl, decide_eq_true rfl⟩

theorem CoreWord.unused075100 (x : BitVec 6) : CoreWord.Statement (.unused075100 x) := ⟨rfl, decide_eq_true rfl⟩

theorem CoreWord.unused075200 (x : BitVec 7) : CoreWord.Statement (.unused075200 x) := ⟨rfl, decide_eq_true rfl⟩

theorem CoreWord.unused075400 (x : BitVec 8) : CoreWord.Statement (.unused075400 x) := ⟨rfl, decide_eq_true rfl⟩

theorem CoreWord.unused076000 (x : BitVec 9) : CoreWord.Statement (.unused076000 x) := ⟨rfl, decide_eq_true rfl⟩

theorem CoreWord.sob (reg : Reg) (off6 : BitVec 6) : CoreWord.Statement (.sob reg off6) := ⟨rfl, decide_eq_true rfl⟩

theorem CoreWord.bpl (off8 : BitVec 8) : CoreWord.Statement (.bpl off8) := ⟨rfl, decide_eq_true rfl⟩

theorem CoreWord.bmi (off8 : BitVec 8) : CoreWord.Statement (.bmi off8) := ⟨rfl, decide_eq_true rfl⟩

theorem CoreWord.bhi (off8 : BitVec 8) : CoreWord.Statement (.bhi off8) := ⟨rfl, decide_eq_true rfl⟩

theorem CoreWord.blos (off8 : BitVec 8) : CoreWord.Statement (.blos off8) := ⟨rfl, decide_eq_true rfl⟩

theorem CoreWord.bvc (off8 : BitVec 8) : CoreWord.Statement (.bvc off8) := ⟨rfl, decide_eq_true rfl⟩

theorem CoreWord.bvs (off8 : BitVec 8) : CoreWord.Statement (.bvs off8) := ⟨rfl, decide_eq_true rfl⟩

theorem CoreWord.bcc (off8 : BitVec 8) : CoreWord.Statement (.bcc off8) := ⟨rfl, decide_eq_true rfl⟩

theorem CoreWord.bcs (off8 : BitVec 8) : CoreWord.Statement (.bcs off8) := ⟨rfl, decide_eq_true rfl⟩

theorem CoreWord.bhis (off8 : BitVec 8) : CoreWord.Statement (.bhis off8) := ⟨rfl, decide_eq_true rfl⟩

theorem CoreWord.blo (off8 : BitVec 8) : CoreWord.Statement (.blo off8) := ⟨rfl, decide_eq_true rfl⟩

theorem CoreWord.unlisted1040xx (code : BitVec 8) : CoreWord.Statement (.unlisted1040xx code) :=
  ⟨rfl, decide_eq_true rfl⟩

theorem CoreWord.unlisted1044xx (code : BitVec 8) : CoreWord.Statement (.unlisted1044xx code) :=
  ⟨rfl, decide_eq_true rfl⟩

theorem CoreWord.clrb (dst : Operand) : CoreWord.Statement (.clrb dst) := ⟨rfl, decide_eq_true rfl⟩

theorem CoreWord.comb (dst : Operand) : CoreWord.Statement (.comb dst) := ⟨rfl, decide_eq_true rfl⟩

theorem CoreWord.incb (dst : Operand) : CoreWord.Statement (.incb dst) := ⟨rfl, decide_eq_true rfl⟩

theorem CoreWord.decb (dst : Operand) : CoreWord.Statement (.decb dst) := ⟨rfl, decide_eq_true rfl⟩

theorem CoreWord.negb (dst : Operand) : CoreWord.Statement (.negb dst) := ⟨rfl, decide_eq_true rfl⟩

theorem CoreWord.adcb (dst : Operand) : CoreWord.Statement (.adcb dst) := ⟨rfl, decide_eq_true rfl⟩

theorem CoreWord.sbcb (dst : Operand) : CoreWord.Statement (.sbcb dst) := ⟨rfl, decide_eq_true rfl⟩

theorem CoreWord.tstb (dst : Operand) : CoreWord.Statement (.tstb dst) := ⟨rfl, decide_eq_true rfl⟩

theorem CoreWord.rorb (dst : Operand) : CoreWord.Statement (.rorb dst) := ⟨rfl, decide_eq_true rfl⟩

theorem CoreWord.rolb (dst : Operand) : CoreWord.Statement (.rolb dst) := ⟨rfl, decide_eq_true rfl⟩

theorem CoreWord.asrb (dst : Operand) : CoreWord.Statement (.asrb dst) := ⟨rfl, decide_eq_true rfl⟩

theorem CoreWord.aslb (dst : Operand) : CoreWord.Statement (.aslb dst) := ⟨rfl, decide_eq_true rfl⟩

theorem CoreWord.mtps (src : Operand) : CoreWord.Statement (.mtps src) := ⟨rfl, decide_eq_true rfl⟩

theorem CoreWord.unused106500 (x : BitVec 6) : CoreWord.Statement (.unused106500 x) := ⟨rfl, decide_eq_true rfl⟩

theorem CoreWord.unused106600 (x : BitVec 6) : CoreWord.Statement (.unused106600 x) := ⟨rfl, decide_eq_true rfl⟩

theorem CoreWord.mfps (dst : Operand) : CoreWord.Statement (.mfps dst) := ⟨rfl, decide_eq_true rfl⟩

theorem CoreWord.unused107000 (x : BitVec 9) : CoreWord.Statement (.unused107000 x) := ⟨rfl, decide_eq_true rfl⟩

theorem CoreWord.movb (src : Operand) (dst : Operand) : CoreWord.Statement (.movb src dst) :=
  ⟨rfl, decide_eq_true rfl⟩

theorem CoreWord.cmpb (src : Operand) (dst : Operand) : CoreWord.Statement (.cmpb src dst) :=
  ⟨rfl, decide_eq_true rfl⟩

theorem CoreWord.bitb (src : Operand) (dst : Operand) : CoreWord.Statement (.bitb src dst) :=
  ⟨rfl, decide_eq_true rfl⟩

theorem CoreWord.bicb (src : Operand) (dst : Operand) : CoreWord.Statement (.bicb src dst) :=
  ⟨rfl, decide_eq_true rfl⟩

theorem CoreWord.bisb (src : Operand) (dst : Operand) : CoreWord.Statement (.bisb src dst) :=
  ⟨rfl, decide_eq_true rfl⟩

theorem CoreWord.sub (src : Operand) (dst : Operand) : CoreWord.Statement (.sub src dst) := ⟨rfl, decide_eq_true rfl⟩

theorem CoreWord.space1111 (x : BitVec 12) : CoreWord.Statement (.space1111 x) := ⟨rfl, decide_eq_true rfl⟩

end Sys2Proof.Laws
end

