-- ==== Sys2Proof/Laws/Start.lean ====
section
/-! SUPPORT. What the inputs of a device do, and what a program loaded into a state leaves there. -/

namespace Sys2Proof.Machine

/-! ## Inputs -/

/-- With no device nothing happens (R244). -/
@[simp] theorem State.byDevice_of_none {s : State} (h : s.params.devices = []) (act : State → State) :
    s.byDevice act = s := by simp [State.byDevice, h]

/-- With a device, what it does happens (R244). -/
@[simp] theorem State.byDevice_of_some {s : State} (h : s.params.devices ≠ []) (act : State → State) :
    s.byDevice act = act s := by simp [State.byDevice, h]

/-! ## Words in memory -/

/-- Each word of those held stands in its place, least significant byte first (R33). -/
theorem Memory.holdsWords_get {m : Memory} {a n : Nat} {w : Word} {ws : List Word} (h : m.holdsWords a ws = true)
    (hw : ws[n]? = some w) : m.read (a + 2 * n) = some (lowByte w) ∧ m.read (a + 2 * n + 1) = some (highByte w) := by
  induction ws generalizing a n with
  | nil => simp at hw
  | cons x ws ih =>
    simp only [Memory.holdsWords, Bool.and_eq_true, decide_eq_true_eq] at h
    cases n with
    | zero => simp only [List.getElem?_cons_zero, Option.some.injEq] at hw; subst hw; exact h.1
    | succ n => rw [show a + 2 * (n + 1) = a + 2 + 2 * n by omega]; exact ih h.2 (by simpa using hw)

/-- Words are held still where their bytes read as before. -/
theorem Memory.holdsWords_congr {m m' : Memory} {a : Nat} {ws : List Word}
    (hr : ∀ x, a ≤ x → x < a + 2 * ws.length → m'.read x = m.read x) (h : m.holdsWords a ws = true) :
    m'.holdsWords a ws = true := by
  induction ws generalizing a with
  | nil => rfl
  | cons w ws ih =>
    simp only [List.length_cons] at hr
    simp only [Memory.holdsWords, Bool.and_eq_true, decide_eq_true_eq] at h ⊢
    exact ⟨⟨by rw [hr _ (by omega) (by omega)]; exact h.1.1, by rw [hr _ (by omega) (by omega)]; exact h.1.2⟩,
      ih (fun x h1 h2 => hr x (by omega) (by omega)) h.2⟩

/-- The bytes of words are two a word (R33). -/
@[simp] theorem wordBytes_length (ws : List Word) : (wordBytes ws).length = 2 * ws.length := by
  induction ws with
  | nil => rfl
  | cons w ws ih => show (lowByte w :: highByte w :: wordBytes ws).length = _; simp [ih]; omega

/-- Storing bytes changes nothing but memory. -/
theorem State.storeBytes_eq (bs : List Byte) (s : State) (a : Word) :
    s.storeBytes a bs = { s with mem := (s.storeBytes a bs).mem } := by
  induction bs generalizing s a with
  | nil => rfl
  | cons b bs ih => rw [State.storeBytes, ih]; rfl

/-- Storing bytes that do not reach past the end of the address space changes those bytes only. -/
theorem State.read_storeBytes_of_outside (bs : List Byte) (s : State) (a : Word) (h : a.toNat + bs.length ≤ 65536)
    (x : Nat) (hx : x < a.toNat ∨ a.toNat + bs.length ≤ x) : (s.storeBytes a bs).mem.read x = s.mem.read x := by
  induction bs generalizing s a with
  | nil => rfl
  | cons b bs ih =>
    simp only [List.length_cons] at h hx
    cases bs with
    | nil => simp only [State.storeBytes]; rw [State.read_storeByte, if_neg (by simp only [List.length_nil] at hx; omega)]
    | cons c bs =>
      have e : (a + 1#16).toNat = a.toNat + 1 := by
        simp only [List.length_cons] at h
        simp only [BitVec.toNat_add, BitVec.toNat_ofNat]
        omega
      rw [State.storeBytes, ih _ _ (by omega) (by omega), State.read_storeByte, if_neg (by omega)]

/-- The words whose bytes are stored are held (R33). -/
theorem State.storeBytes_holdsWords (ws : List Word) (s : State) (a : Word) (h : a.toNat + 2 * ws.length < 65536) :
    (s.storeBytes a (wordBytes ws)).mem.holdsWords a.toNat ws = true := by
  induction ws generalizing s a with
  | nil => rfl
  | cons w ws ih =>
    simp only [List.length_cons] at h
    have e1 : (a + 1#16).toNat = a.toNat + 1 := by simp only [BitVec.toNat_add, BitVec.toNat_ofNat]; omega
    have e2 : (a + 1#16 + 1#16).toNat = a.toNat + 2 := by
      simp only [BitVec.toNat_add, BitVec.toNat_ofNat]; omega
    have hw : wordBytes (w :: ws) = lowByte w :: highByte w :: wordBytes ws := rfl
    rw [hw]
    simp only [State.storeBytes, Memory.holdsWords, Bool.and_eq_true]
    have hout := State.read_storeBytes_of_outside (wordBytes ws)
      ((s.storeByte a (lowByte w)).storeByte (a + 1#16) (highByte w)) (a + 1#16 + 1#16)
      (by rw [e2, wordBytes_length]; omega)
    have hin := ih ((s.storeByte a (lowByte w)).storeByte (a + 1#16) (highByte w)) (a + 1#16 + 1#16) (by rw [e2]; omega)
    rw [e2] at hout hin
    refine ⟨⟨decide_eq_true ?_, decide_eq_true ?_⟩, hin⟩
    · rw [hout _ (by omega), State.read_storeByte, State.read_storeByte, if_neg (by omega), if_pos rfl]
    · rw [hout _ (by omega), State.read_storeByte, if_pos e1.symm]

end Sys2Proof.Machine
end

