-- ==== Sys2Proof/Tests/Slice0.lean ====
section
/-! SUPPORT. Tests: ill-formed terms refused, words written out from the spec's encodings decoded, one step on small
states with the results of spec/95_test_vectors.md and the examples of spec/42_eis.md, and a witness for the hypotheses of
every statement that has any. -/

namespace Sys2Proof.Tests

open Sys2Proof.Machine

/-! ## Well-formedness -/

theorem test_wf_refuses_nop240 : Instr.nop240.wellFormed = false := by decide
theorem test_wf_refuses_clc : Instr.clc.wellFormed = false := by decide
theorem test_wf_refuses_clv : Instr.clv.wellFormed = false := by decide
theorem test_wf_refuses_clz : Instr.clz.wellFormed = false := by decide
theorem test_wf_refuses_cln : Instr.cln.wellFormed = false := by decide
theorem test_wf_refuses_ccc : Instr.ccc.wellFormed = false := by decide
theorem test_wf_refuses_nop260 : Instr.nop260.wellFormed = false := by decide
theorem test_wf_refuses_sec : Instr.sec.wellFormed = false := by decide
theorem test_wf_refuses_sev : Instr.sev.wellFormed = false := by decide
theorem test_wf_refuses_sez : Instr.sez.wellFormed = false := by decide
theorem test_wf_refuses_sen : Instr.sen.wellFormed = false := by decide
theorem test_wf_refuses_scc : Instr.scc.wellFormed = false := by decide
theorem test_wf_refuses_bhis : (Instr.bhis 1#8).wellFormed = false := by decide
theorem test_wf_refuses_blo : (Instr.blo 1#8).wellFormed = false := by decide
theorem test_wf_accepts_core :
    (Instr.clx 0b0001#4).wellFormed = true ∧ (Instr.bcc 1#8).wellFormed = true ∧
    (Instr.mov ⟨.index, .r1⟩ ⟨.autoDec, .r6⟩).wellFormed = true := by decide

/-! ## Decoding -/

/-- The words of spec/46_misc_control.md, bit by bit. -/
theorem test_decode_jumps_and_operate :
    decodeWord 0b0000000000000000#16 = .halt ∧
    decodeWord 0b0000000000000001#16 = .wait ∧
    decodeWord 0b0000000000000010#16 = .rti ∧
    decodeWord 0b0000000000000100#16 = .bpt ∧
    decodeWord 0b0000000000000101#16 = .reset ∧
    decodeWord 0b0000000001010001#16 = .jmp ⟨.autoInc, .r1⟩ ∧
    decodeWord 0b0000000010000111#16 = .rts .r7 ∧
    decodeWord 0b0000100001110011#16 = .jsr .r1 ⟨.index, .r3⟩ := by decide

/-- The words of spec/47_unlisted_supplement.md, bit by bit. -/
theorem test_decode_unlisted :
    decodeWord 0b0000000000000011#16 = .unlisted000003 ∧
    decodeWord 0b0000000000000110#16 = .unlisted000006 ∧
    decodeWord 0b0000000010011010#16 = .unlisted00023x 0b010#3 ∧
    decodeWord 0b1000100010110110#16 = .unlisted1040xx 0b10110110#8 ∧
    decodeWord 0b1000100110101001#16 = .unlisted1044xx 0b10101001#8 := by decide

/-- The words of spec/30_encoding.md, bit by bit. -/
theorem test_decode_unused :
    decodeWord 0b0000000000000111#16 = .unused000007 ∧
    decodeWord 0b0000000000001011#16 = .unused000010 0b011#3 ∧
    decodeWord 0b0000000000011110#16 = .unused000020 0b1110#4 ∧
    decodeWord 0b0000000000100001#16 = .unused000040 0b00001#5 ∧
    decodeWord 0b0000000010001011#16 = .unused000210 0b011#3 ∧
    decodeWord 0b0000000010010111#16 = .unused000220 0b111#3 ∧
    decodeWord 0b0000110101101111#16 = .unused006500 0b101111#6 ∧
    decodeWord 0b0000110110100011#16 = .unused006600 0b100011#6 ∧
    decodeWord 0b0000111001001010#16 = .unused007000 0b001001010#9 ∧
    decodeWord 0b0111101000100001#16 = .unused075040 0b00001#5 ∧
    decodeWord 0b0111101001110011#16 = .unused075100 0b110011#6 ∧
    decodeWord 0b0111101011100110#16 = .unused075200 0b1100110#7 ∧
    decodeWord 0b0111101101011010#16 = .unused075400 0b01011010#8 ∧
    decodeWord 0b0111110101001101#16 = .unused076000 0b101001101#9 ∧
    decodeWord 0b1000110101111001#16 = .unused106500 0b111001#6 ∧
    decodeWord 0b1000110110101100#16 = .unused106600 0b101100#6 ∧
    decodeWord 0b1000111111010011#16 = .unused107000 0b111010011#9 := by decide

/-- The words of spec/45_condition_codes.md, bit by bit. -/
theorem test_decode_condition_codes :
    decodeWord 0b0000000010100110#16 = .clx 0b0110#4 ∧
    decodeWord 0b0000000010111001#16 = .sex 0b1001#4 ∧
    decodeWord 0b0000000010100000#16 = .clx 0b0000#4 ∧
    decodeWord 0b0000000010100001#16 = .clx 0b0001#4 ∧
    decodeWord 0b0000000010100010#16 = .clx 0b0010#4 ∧
    decodeWord 0b0000000010100100#16 = .clx 0b0100#4 ∧
    decodeWord 0b0000000010101000#16 = .clx 0b1000#4 ∧
    decodeWord 0b0000000010101111#16 = .clx 0b1111#4 ∧
    decodeWord 0b0000000010110000#16 = .sex 0b0000#4 ∧
    decodeWord 0b0000000010110001#16 = .sex 0b0001#4 ∧
    decodeWord 0b0000000010110010#16 = .sex 0b0010#4 ∧
    decodeWord 0b0000000010110100#16 = .sex 0b0100#4 ∧
    decodeWord 0b0000000010111000#16 = .sex 0b1000#4 ∧
    decodeWord 0b0000000010111111#16 = .sex 0b1111#4 := by decide

/-- The words of spec/43_single_operand.md, bit by bit. -/
theorem test_decode_single_operand_a :
    decodeWord 0b0000000011011000#16 = .swab ⟨.autoIncDef, .r0⟩ ∧
    decodeWord 0b0000101000110101#16 = .clr ⟨.index, .r5⟩ ∧
    decodeWord 0b0000101001001010#16 = .com ⟨.deferred, .r2⟩ ∧
    decodeWord 0b0000101010100111#16 = .inc ⟨.autoDec, .r7⟩ ∧
    decodeWord 0b0000101011111100#16 = .dec ⟨.indexDef, .r4⟩ ∧
    decodeWord 0b0000101100010001#16 = .neg ⟨.autoInc, .r1⟩ ∧
    decodeWord 0b0000101101101110#16 = .adc ⟨.autoDecDef, .r6⟩ ∧
    decodeWord 0b0000101110000011#16 = .sbc ⟨.register, .r3⟩ ∧
    decodeWord 0b0000101111011000#16 = .tst ⟨.autoIncDef, .r0⟩ ∧
    decodeWord 0b0000110000110101#16 = .ror ⟨.index, .r5⟩ ∧
    decodeWord 0b0000110001001010#16 = .rol ⟨.deferred, .r2⟩ ∧
    decodeWord 0b0000110010100111#16 = .asr ⟨.autoDec, .r7⟩ ∧
    decodeWord 0b0000110011111100#16 = .asl ⟨.indexDef, .r4⟩ ∧
    decodeWord 0b0000110100111100#16 = .mark 0b111100#6 ∧
    decodeWord 0b0000110111011000#16 = .sxt ⟨.autoIncDef, .r0⟩ ∧
    decodeWord 0b1000101000100111#16 = .clrb ⟨.autoDec, .r7⟩ ∧
    decodeWord 0b1000101001111100#16 = .comb ⟨.indexDef, .r4⟩ ∧
    decodeWord 0b1000101010010001#16 = .incb ⟨.autoInc, .r1⟩ := by decide

/-- The words of spec/43_single_operand.md, bit by bit. -/
theorem test_decode_single_operand_b :
    decodeWord 0b1000101011101110#16 = .decb ⟨.autoDecDef, .r6⟩ ∧
    decodeWord 0b1000101100000011#16 = .negb ⟨.register, .r3⟩ ∧
    decodeWord 0b1000101101011000#16 = .adcb ⟨.autoIncDef, .r0⟩ ∧
    decodeWord 0b1000101110110101#16 = .sbcb ⟨.index, .r5⟩ ∧
    decodeWord 0b1000101111001010#16 = .tstb ⟨.deferred, .r2⟩ ∧
    decodeWord 0b1000110000100111#16 = .rorb ⟨.autoDec, .r7⟩ ∧
    decodeWord 0b1000110001111100#16 = .rolb ⟨.indexDef, .r4⟩ ∧
    decodeWord 0b1000110010010001#16 = .asrb ⟨.autoInc, .r1⟩ ∧
    decodeWord 0b1000110011101110#16 = .aslb ⟨.autoDecDef, .r6⟩ ∧
    decodeWord 0b1000110100000011#16 = .mtps ⟨.register, .r3⟩ ∧
    decodeWord 0b1000110111001010#16 = .mfps ⟨.deferred, .r2⟩ := by decide

/-- The words of spec/44_branches.md, bit by bit. -/
theorem test_decode_branches :
    decodeWord 0b0000000101111000#16 = .br 0b01111000#8 ∧
    decodeWord 0b0000001001101100#16 = .bne 0b01101100#8 ∧
    decodeWord 0b0000001101011111#16 = .beq 0b01011111#8 ∧
    decodeWord 0b0000010001010011#16 = .bge 0b01010011#8 ∧
    decodeWord 0b0000010101000110#16 = .blt 0b01000110#8 ∧
    decodeWord 0b0000011000111001#16 = .bgt 0b00111001#8 ∧
    decodeWord 0b0000011100101101#16 = .ble 0b00101101#8 ∧
    decodeWord 0b1000000000110100#16 = .bpl 0b00110100#8 ∧
    decodeWord 0b1000000100100111#16 = .bmi 0b00100111#8 ∧
    decodeWord 0b1000001000011011#16 = .bhi 0b00011011#8 ∧
    decodeWord 0b1000001100001110#16 = .blos 0b00001110#8 ∧
    decodeWord 0b1000010000000010#16 = .bvc 0b00000010#8 ∧
    decodeWord 0b1000010111110101#16 = .bvs 0b11110101#8 ∧
    decodeWord 0b1000011011101000#16 = .bcc 0b11101000#8 ∧
    decodeWord 0b1000011111011100#16 = .bcs 0b11011100#8 ∧
    decodeWord 0b1000011011001111#16 = .bcc 0b11001111#8 ∧
    decodeWord 0b1000011111000010#16 = .bcs 0b11000010#8 := by decide

/-- The words of spec/41_double_operand.md, bit by bit. -/
theorem test_decode_double_operand :
    decodeWord 0b0001001010111000#16 = .mov ⟨.deferred, .r2⟩ ⟨.indexDef, .r0⟩ ∧
    decodeWord 0b0010100111010101#16 = .cmp ⟨.autoDec, .r7⟩ ⟨.autoInc, .r5⟩ ∧
    decodeWord 0b0011111100101010#16 = .bit ⟨.indexDef, .r4⟩ ⟨.autoDecDef, .r2⟩ ∧
    decodeWord 0b0100010001000111#16 = .bic ⟨.autoInc, .r1⟩ ⟨.register, .r7⟩ ∧
    decodeWord 0b0101101110011100#16 = .bis ⟨.autoDecDef, .r6⟩ ⟨.autoIncDef, .r4⟩ ∧
    decodeWord 0b0110000011110001#16 = .add ⟨.register, .r3⟩ ⟨.index, .r1⟩ ∧
    decodeWord 0b1001111100101010#16 = .movb ⟨.indexDef, .r4⟩ ⟨.autoDecDef, .r2⟩ ∧
    decodeWord 0b1010010001000111#16 = .cmpb ⟨.autoInc, .r1⟩ ⟨.register, .r7⟩ ∧
    decodeWord 0b1011101110011100#16 = .bitb ⟨.autoDecDef, .r6⟩ ⟨.autoIncDef, .r4⟩ ∧
    decodeWord 0b1100000011110001#16 = .bicb ⟨.register, .r3⟩ ⟨.index, .r1⟩ ∧
    decodeWord 0b1101011000001110#16 = .bisb ⟨.autoIncDef, .r0⟩ ⟨.deferred, .r6⟩ ∧
    decodeWord 0b1110110101100011#16 = .sub ⟨.index, .r5⟩ ⟨.autoDec, .r3⟩ := by decide

/-- The words of spec/42_eis.md, bit by bit. -/
theorem test_decode_eis :
    decodeWord 0b0111000001110011#16 = .mul .r1 ⟨.index, .r3⟩ ∧
    decodeWord 0b0111001110001000#16 = .div .r6 ⟨.deferred, .r0⟩ ∧
    decodeWord 0b0111010011100101#16 = .ash .r3 ⟨.autoDec, .r5⟩ ∧
    decodeWord 0b0111011000111010#16 = .ashc .r0 ⟨.indexDef, .r2⟩ ∧
    decodeWord 0b0111100101010111#16 = .xor .r5 ⟨.autoInc, .r7⟩ ∧
    decodeWord 0b0111101000000010#16 = .fadd .r2 ∧
    decodeWord 0b0111101000001111#16 = .fsub .r7 ∧
    decodeWord 0b0111101000010100#16 = .fmul .r4 ∧
    decodeWord 0b0111101000011001#16 = .fdiv .r1 ∧
    decodeWord 0b0111111111000001#16 = .sob .r7 0b000001#6 ∧
    decodeWord 0b1111101001111010#16 = .space1111 0b101001111010#12 := by decide

theorem test_decode_too_short : decode [0o240#8] = .error .truncated := by decide

theorem test_decode_table_word : decodeTableWord 16 0o012767 = some (.mov ⟨.autoInc, .r7⟩ ⟨.index, .r7⟩) := by decide

/-- The little-endian order of R33: the first byte is the low one. -/
theorem test_decode_byte_order : decode [0o241#8, 0o001#8] = .ok (.br 0o241#8, []) := by decide

/-! ## Single steps -/

/-- A small state: registers, PS, and words of memory; the parameters are those of reset. -/
def small (regs : Regs) (ps : Word) (words : List (Word × Word)) : State :=
  words.foldl (fun s p => s.storeWord p.1 p.2) { State.reset with regs := regs, ps := ps }

/-- A word of memory as it stands, zero where a byte has not been written. -/
def wordAt (s : State) (a : Word) : Word :=
  joinBytes ((s.mem.read (a + 1#16).toNat).getD 0#8) ((s.mem.read a.toNat).getD 0#8)

/-- What a test looks at after a step: the registers, the PS, the run state and some words of memory. -/
def after (x : Out) (at_ : List Word) : Option (Regs × Word × RunState × List Word) :=
  match x with
  | .next t => some (t.regs, t.ps, t.run, at_.map (wordAt t))
  | .fault _ => none
  | .refused _ => none

/-- The stop of an outcome. -/
def stopOf (x : Out) : Option (Fault ⊕ Refusal) :=
  match x with
  | .next _ => none
  | .fault f => some (.inl f)
  | .refused r => some (.inr r)

/-- The PC after an outcome. -/
def pcOf (x : Out) : Option Word :=
  match x with
  | .next t => some t.pc
  | .fault _ => none
  | .refused _ => none

/-- T-DOP-1: MOV R0,R1. -/
theorem test_mov_keeps_c :
    after (step (small ⟨0o100000, 0o5, 0o0, 0o0, 0o0, 0o0, 0o0, 0o1000⟩ 0o1 [(0o1000, 0o10001)])) [] =
      some (⟨0o100000, 0o100000, 0o0, 0o0, 0o0, 0o0, 0o0, 0o1002⟩, 0o11, .running, []) := by decide

/-- T-ADDR-20: MOV PC,2(R2). -/
theorem test_mov_pc_before_index_word :
    after (step (small ⟨0o0, 0o0, 0o2000, 0o0, 0o0, 0o0, 0o0, 0o1000⟩ 0o0 [(0o1000, 0o10762), (0o1002, 0o2)])) [0o2002] =
      some (⟨0o0, 0o0, 0o2000, 0o0, 0o0, 0o0, 0o0, 0o1004⟩, 0o0, .running, [0o1002]) := by decide

/-- T-DOP-5: MOVB (R1),R0. -/
theorem test_movb_extends_sign :
    after (step (small ⟨0o52525, 0o2000, 0o0, 0o0, 0o0, 0o0, 0o0, 0o1000⟩ 0o0 [(0o1000, 0o111100), (0o2000, 0o200)])) [] =
      some (⟨0o177600, 0o2000, 0o0, 0o0, 0o0, 0o0, 0o0, 0o1002⟩, 0o10, .running, []) := by decide

/-- T-DOP-4: MOVB R0,(R1). -/
theorem test_movb_stores_one_byte :
    after (step (small ⟨0o301, 0o2001, 0o0, 0o0, 0o0, 0o0, 0o0, 0o1000⟩ 0o0 [(0o1000, 0o110011), (0o2000, 0o52525)])) [0o2000] =
      some (⟨0o301, 0o2001, 0o0, 0o0, 0o0, 0o0, 0o0, 0o1002⟩, 0o10, .running, [0o140525]) := by decide

/-- T-DOP-9: CMP R0,R1. -/
theorem test_cmp_overflow :
    after (step (small ⟨0o100000, 0o1, 0o0, 0o0, 0o0, 0o0, 0o0, 0o1000⟩ 0o0 [(0o1000, 0o20001)])) [] =
      some (⟨0o100000, 0o1, 0o0, 0o0, 0o0, 0o0, 0o0, 0o1002⟩, 0o2, .running, []) := by decide

/-- T-DOP-10: CMP R0,R1. -/
theorem test_cmp_borrow :
    after (step (small ⟨0o0, 0o1, 0o0, 0o0, 0o0, 0o0, 0o0, 0o1000⟩ 0o0 [(0o1000, 0o20001)])) [] =
      some (⟨0o0, 0o1, 0o0, 0o0, 0o0, 0o0, 0o0, 0o1002⟩, 0o11, .running, []) := by decide

/-- T-DOP-13: CMPB R0,R1. -/
theorem test_cmpb_ignores_high_bytes :
    after (step (small ⟨0o123401, 0o55401, 0o0, 0o0, 0o0, 0o0, 0o0, 0o1000⟩ 0o0 [(0o1000, 0o120001)])) [] =
      some (⟨0o123401, 0o55401, 0o0, 0o0, 0o0, 0o0, 0o0, 0o1002⟩, 0o4, .running, []) := by decide

/-- T-DOP-15: BIT R0,R1. -/
theorem test_bit_keeps_c :
    after (step (small ⟨0o125252, 0o52525, 0o0, 0o0, 0o0, 0o0, 0o0, 0o1000⟩ 0o13 [(0o1000, 0o30001)])) [] =
      some (⟨0o125252, 0o52525, 0o0, 0o0, 0o0, 0o0, 0o0, 0o1002⟩, 0o5, .running, []) := by decide

/-- T-DOP-16: BITB #0o200,(R1). -/
theorem test_bitb_immediate :
    after (step (small ⟨0o0, 0o2000, 0o0, 0o0, 0o0, 0o0, 0o0, 0o1000⟩ 0o0 [(0o1000, 0o132711), (0o1002, 0o200), (0o2000, 0o377)])) [] =
      some (⟨0o0, 0o2000, 0o0, 0o0, 0o0, 0o0, 0o0, 0o1004⟩, 0o10, .running, []) := by decide

/-- T-DOP-17: BIC #0o177400,R0. -/
theorem test_bic_clears_bits :
    after (step (small ⟨0o123456, 0o0, 0o0, 0o0, 0o0, 0o0, 0o0, 0o1000⟩ 0o0 [(0o1000, 0o42700), (0o1002, 0o177400)])) [] =
      some (⟨0o56, 0o0, 0o0, 0o0, 0o0, 0o0, 0o0, 0o1004⟩, 0o0, .running, []) := by decide

/-- T-DOP-19: BICB #0o40,R0. -/
theorem test_bicb_keeps_high_byte :
    after (step (small ⟨0o61141, 0o0, 0o0, 0o0, 0o0, 0o0, 0o0, 0o1000⟩ 0o0 [(0o1000, 0o142700), (0o1002, 0o40)])) [] =
      some (⟨0o61101, 0o0, 0o0, 0o0, 0o0, 0o0, 0o0, 0o1004⟩, 0o0, .running, []) := by decide

/-- T-DOP-20: BIS R0,R1. -/
theorem test_bis_sets_bits :
    after (step (small ⟨0o100000, 0o1, 0o0, 0o0, 0o0, 0o0, 0o0, 0o1000⟩ 0o0 [(0o1000, 0o50001)])) [] =
      some (⟨0o100000, 0o100001, 0o0, 0o0, 0o0, 0o0, 0o0, 0o1002⟩, 0o10, .running, []) := by decide

/-- T-DOP-22: BISB R0,(R1). -/
theorem test_bisb_odd_address :
    after (step (small ⟨0o17, 0o2001, 0o0, 0o0, 0o0, 0o0, 0o0, 0o1000⟩ 0o0 [(0o1000, 0o150011), (0o2000, 0o10000)])) [0o2000] =
      some (⟨0o17, 0o2001, 0o0, 0o0, 0o0, 0o0, 0o0, 0o1002⟩, 0o0, .running, [0o17400]) := by decide

/-- T-DOP-26: ADD R0,R1. -/
theorem test_add_overflow_and_carry :
    after (step (small ⟨0o100000, 0o100000, 0o0, 0o0, 0o0, 0o0, 0o0, 0o1000⟩ 0o0 [(0o1000, 0o60001)])) [] =
      some (⟨0o100000, 0o0, 0o0, 0o0, 0o0, 0o0, 0o0, 0o1002⟩, 0o7, .running, []) := by decide

/-- T-DOP-32: SUB R0,R1. -/
theorem test_sub_overflow_and_borrow :
    after (step (small ⟨0o177777, 0o77777, 0o0, 0o0, 0o0, 0o0, 0o0, 0o1000⟩ 0o0 [(0o1000, 0o160001)])) [] =
      some (⟨0o177777, 0o100000, 0o0, 0o0, 0o0, 0o0, 0o0, 0o1002⟩, 0o13, .running, []) := by decide

/-- T-DOP-33: SUB (R0)+,R1. -/
theorem test_sub_is_a_word_instruction :
    after (step (small ⟨0o2000, 0o10, 0o0, 0o0, 0o0, 0o0, 0o0, 0o1000⟩ 0o0 [(0o1000, 0o162001), (0o2000, 0o1)])) [] =
      some (⟨0o2002, 0o7, 0o0, 0o0, 0o0, 0o0, 0o0, 0o1002⟩, 0o0, .running, []) := by decide

/-- T-SOP-1: SWAB R0. -/
theorem test_swab_flags_from_low_byte :
    after (step (small ⟨0o377, 0o0, 0o0, 0o0, 0o0, 0o0, 0o0, 0o1000⟩ 0o13 [(0o1000, 0o300)])) [] =
      some (⟨0o177400, 0o0, 0o0, 0o0, 0o0, 0o0, 0o0, 0o1002⟩, 0o4, .running, []) := by decide

/-- T-ADDR-21: CLR 4(R2). -/
theorem test_clr_index :
    after (step (small ⟨0o0, 0o0, 0o177776, 0o0, 0o0, 0o0, 0o0, 0o1000⟩ 0o0 [(0o2, 0o777), (0o1000, 0o5062), (0o1002, 0o4)])) [0o2] =
      some (⟨0o0, 0o0, 0o177776, 0o0, 0o0, 0o0, 0o0, 0o1004⟩, 0o4, .running, [0o0]) := by decide

/-- T-ADDR-2: CLRB (R3)+. -/
theorem test_clrb_steps_by_one :
    after (step (small ⟨0o0, 0o0, 0o0, 0o2001, 0o0, 0o0, 0o0, 0o1000⟩ 0o0 [(0o1000, 0o105023), (0o2000, 0o125252)])) [0o2000] =
      some (⟨0o0, 0o0, 0o0, 0o2002, 0o0, 0o0, 0o0, 0o1002⟩, 0o4, .running, [0o252]) := by decide

/-- T-SOP-5: COM R0. -/
theorem test_com_sets_c :
    after (step (small ⟨0o13333, 0o0, 0o0, 0o0, 0o0, 0o0, 0o0, 0o1000⟩ 0o0 [(0o1000, 0o5100)])) [] =
      some (⟨0o164444, 0o0, 0o0, 0o0, 0o0, 0o0, 0o0, 0o1002⟩, 0o11, .running, []) := by decide

/-- T-SOP-7: COMB R0. -/
theorem test_comb_low_byte :
    after (step (small ⟨0o17, 0o0, 0o0, 0o0, 0o0, 0o0, 0o0, 0o1000⟩ 0o0 [(0o1000, 0o105100)])) [] =
      some (⟨0o360, 0o0, 0o0, 0o0, 0o0, 0o0, 0o0, 0o1002⟩, 0o11, .running, []) := by decide

/-- T-SOP-9: INC R0. -/
theorem test_inc_keeps_c :
    after (step (small ⟨0o177777, 0o0, 0o0, 0o0, 0o0, 0o0, 0o0, 0o1000⟩ 0o1 [(0o1000, 0o5200)])) [] =
      some (⟨0o0, 0o0, 0o0, 0o0, 0o0, 0o0, 0o0, 0o1002⟩, 0o5, .running, []) := by decide

/-- T-ADDR-5: INC @-(R2). -/
theorem test_inc_deferred_autodecrement :
    after (step (small ⟨0o0, 0o0, 0o2002, 0o0, 0o0, 0o0, 0o0, 0o1000⟩ 0o0 [(0o1000, 0o5252), (0o2000, 0o2100), (0o2100, 0o1)])) [0o2100] =
      some (⟨0o0, 0o0, 0o2000, 0o0, 0o0, 0o0, 0o0, 0o1002⟩, 0o0, .running, [0o2]) := by decide

/-- T-SOP-11: INCB R0. -/
theorem test_incb_no_carry_to_high_byte :
    after (step (small ⟨0o377, 0o0, 0o0, 0o0, 0o0, 0o0, 0o0, 0o1000⟩ 0o0 [(0o1000, 0o105200)])) [] =
      some (⟨0o0, 0o0, 0o0, 0o0, 0o0, 0o0, 0o0, 0o1002⟩, 0o4, .running, []) := by decide

/-- T-SOP-16: DEC R2. -/
theorem test_dec_overflow :
    after (step (small ⟨0o0, 0o0, 0o100000, 0o0, 0o0, 0o0, 0o0, 0o1000⟩ 0o0 [(0o1000, 0o5302)])) [] =
      some (⟨0o0, 0o0, 0o77777, 0o0, 0o0, 0o0, 0o0, 0o1002⟩, 0o2, .running, []) := by decide

/-- T-SOP-17: DECB R0. -/
theorem test_decb_low_byte :
    after (step (small ⟨0o400, 0o0, 0o0, 0o0, 0o0, 0o0, 0o0, 0o1000⟩ 0o0 [(0o1000, 0o105300)])) [] =
      some (⟨0o777, 0o0, 0o0, 0o0, 0o0, 0o0, 0o0, 0o1002⟩, 0o10, .running, []) := by decide

/-- T-SOP-20: NEG R0. -/
theorem test_neg_most_negative :
    after (step (small ⟨0o100000, 0o0, 0o0, 0o0, 0o0, 0o0, 0o0, 0o1000⟩ 0o0 [(0o1000, 0o5400)])) [] =
      some (⟨0o100000, 0o0, 0o0, 0o0, 0o0, 0o0, 0o0, 0o1002⟩, 0o13, .running, []) := by decide

/-- T-SOP-21: NEGB R0. -/
theorem test_negb_low_byte :
    after (step (small ⟨0o200, 0o0, 0o0, 0o0, 0o0, 0o0, 0o0, 0o1000⟩ 0o0 [(0o1000, 0o105400)])) [] =
      some (⟨0o200, 0o0, 0o0, 0o0, 0o0, 0o0, 0o0, 0o1002⟩, 0o13, .running, []) := by decide

/-- T-SOP-23: ADC R1. -/
theorem test_adc_carry :
    after (step (small ⟨0o0, 0o5, 0o0, 0o0, 0o0, 0o0, 0o0, 0o1000⟩ 0o2 [(0o1000, 0o5501)])) [] =
      some (⟨0o0, 0o5, 0o0, 0o0, 0o0, 0o0, 0o0, 0o1002⟩, 0o0, .running, []) := by decide

/-- T-SOP-26: ADCB R0. -/
theorem test_adcb_low_byte :
    after (step (small ⟨0o377, 0o0, 0o0, 0o0, 0o0, 0o0, 0o0, 0o1000⟩ 0o1 [(0o1000, 0o105500)])) [] =
      some (⟨0o0, 0o0, 0o0, 0o0, 0o0, 0o0, 0o0, 0o1002⟩, 0o5, .running, []) := by decide

/-- T-SOP-28: SBC R1. -/
theorem test_sbc_borrow :
    after (step (small ⟨0o0, 0o0, 0o0, 0o0, 0o0, 0o0, 0o0, 0o1000⟩ 0o1 [(0o1000, 0o5601)])) [] =
      some (⟨0o0, 0o177777, 0o0, 0o0, 0o0, 0o0, 0o0, 0o1002⟩, 0o11, .running, []) := by decide

/-- T-SOP-31: SBCB R0. -/
theorem test_sbcb_low_byte :
    after (step (small ⟨0o0, 0o0, 0o0, 0o0, 0o0, 0o0, 0o0, 0o1000⟩ 0o1 [(0o1000, 0o105600)])) [] =
      some (⟨0o377, 0o0, 0o0, 0o0, 0o0, 0o0, 0o0, 0o1002⟩, 0o11, .running, []) := by decide

/-- T-SOP-33: TST R0. -/
theorem test_tst_clears_c :
    after (step (small ⟨0o0, 0o0, 0o0, 0o0, 0o0, 0o0, 0o0, 0o1000⟩ 0o13 [(0o1000, 0o5700)])) [] =
      some (⟨0o0, 0o0, 0o0, 0o0, 0o0, 0o0, 0o0, 0o1002⟩, 0o4, .running, []) := by decide

/-- T-SOP-34: TSTB (R1)+. -/
theorem test_tstb_steps_by_one :
    after (step (small ⟨0o0, 0o2001, 0o0, 0o0, 0o0, 0o0, 0o0, 0o1000⟩ 0o0 [(0o1000, 0o105721), (0o2000, 0o100000)])) [] =
      some (⟨0o0, 0o2002, 0o0, 0o0, 0o0, 0o0, 0o0, 0o1002⟩, 0o10, .running, []) := by decide

/-- T-SOP-35: ROR R0. -/
theorem test_ror_through_c :
    after (step (small ⟨0o1, 0o0, 0o0, 0o0, 0o0, 0o0, 0o0, 0o1000⟩ 0o1 [(0o1000, 0o6000)])) [] =
      some (⟨0o100000, 0o0, 0o0, 0o0, 0o0, 0o0, 0o0, 0o1002⟩, 0o11, .running, []) := by decide

/-- T-SOP-38: RORB R0. -/
theorem test_rorb_keeps_bit_8 :
    after (step (small ⟨0o177401, 0o0, 0o0, 0o0, 0o0, 0o0, 0o0, 0o1000⟩ 0o0 [(0o1000, 0o106000)])) [] =
      some (⟨0o177400, 0o0, 0o0, 0o0, 0o0, 0o0, 0o0, 0o1002⟩, 0o7, .running, []) := by decide

/-- T-SOP-40: ROL R0. -/
theorem test_rol_through_c :
    after (step (small ⟨0o40000, 0o0, 0o0, 0o0, 0o0, 0o0, 0o0, 0o1000⟩ 0o1 [(0o1000, 0o6100)])) [] =
      some (⟨0o100001, 0o0, 0o0, 0o0, 0o0, 0o0, 0o0, 0o1002⟩, 0o12, .running, []) := by decide

/-- T-SOP-41: ROLB R0. -/
theorem test_rolb_low_byte :
    after (step (small ⟨0o200, 0o0, 0o0, 0o0, 0o0, 0o0, 0o0, 0o1000⟩ 0o0 [(0o1000, 0o106100)])) [] =
      some (⟨0o0, 0o0, 0o0, 0o0, 0o0, 0o0, 0o0, 0o1002⟩, 0o7, .running, []) := by decide

/-- T-SOP-44: ASR R0. -/
theorem test_asr_minus_three :
    after (step (small ⟨0o177775, 0o0, 0o0, 0o0, 0o0, 0o0, 0o0, 0o1000⟩ 0o0 [(0o1000, 0o6200)])) [] =
      some (⟨0o177776, 0o0, 0o0, 0o0, 0o0, 0o0, 0o0, 0o1002⟩, 0o11, .running, []) := by decide

/-- T-SOP-45: ASRB R0. -/
theorem test_asrb_sign :
    after (step (small ⟨0o200, 0o0, 0o0, 0o0, 0o0, 0o0, 0o0, 0o1000⟩ 0o0 [(0o1000, 0o106200)])) [] =
      some (⟨0o300, 0o0, 0o0, 0o0, 0o0, 0o0, 0o0, 0o1002⟩, 0o12, .running, []) := by decide

/-- T-SOP-46: ASL R0. -/
theorem test_asl_overflow :
    after (step (small ⟨0o40000, 0o0, 0o0, 0o0, 0o0, 0o0, 0o0, 0o1000⟩ 0o0 [(0o1000, 0o6300)])) [] =
      some (⟨0o100000, 0o0, 0o0, 0o0, 0o0, 0o0, 0o0, 0o1002⟩, 0o12, .running, []) := by decide

/-- T-SOP-49: ASLB R0. -/
theorem test_aslb_low_byte :
    after (step (small ⟨0o101, 0o0, 0o0, 0o0, 0o0, 0o0, 0o0, 0o1000⟩ 0o0 [(0o1000, 0o106300)])) [] =
      some (⟨0o202, 0o0, 0o0, 0o0, 0o0, 0o0, 0o0, 0o1002⟩, 0o12, .running, []) := by decide

/-- T-SOP-50: SXT R1. -/
theorem test_sxt_of_n :
    after (step (small ⟨0o0, 0o5, 0o0, 0o0, 0o0, 0o0, 0o0, 0o1000⟩ 0o10 [(0o1000, 0o6701)])) [] =
      some (⟨0o0, 0o177777, 0o0, 0o0, 0o0, 0o0, 0o0, 0o1002⟩, 0o10, .running, []) := by decide

/-- T-SOP-51: SXT R1. -/
theorem test_sxt_of_not_n :
    after (step (small ⟨0o0, 0o5, 0o0, 0o0, 0o0, 0o0, 0o0, 0o1000⟩ 0o3 [(0o1000, 0o6701)])) [] =
      some (⟨0o0, 0o0, 0o0, 0o0, 0o0, 0o0, 0o0, 0o1002⟩, 0o5, .running, []) := by decide

/-- T-SOP-52: MARK 2. -/
theorem test_mark_drops_parameters :
    after (step (small ⟨0o0, 0o0, 0o0, 0o0, 0o0, 0o1234, 0o700, 0o770⟩ 0o0 [(0o770, 0o6402), (0o776, 0o4321)])) [] =
      some (⟨0o0, 0o0, 0o0, 0o0, 0o0, 0o4321, 0o1000, 0o1234⟩, 0o0, .running, []) := by decide

/-- T-SOP-53: MTPS #0o357. -/
theorem test_mtps_leaves_t :
    after (step (small ⟨0o0, 0o0, 0o0, 0o0, 0o0, 0o0, 0o0, 0o1000⟩ 0o0 [(0o1000, 0o106427), (0o1002, 0o357)])) [] =
      some (⟨0o0, 0o0, 0o0, 0o0, 0o0, 0o0, 0o0, 0o1004⟩, 0o357, .running, []) := by decide

/-- T-SOP-55: MFPS R0. -/
theorem test_mfps_extends_sign :
    after (step (small ⟨0o0, 0o0, 0o0, 0o0, 0o0, 0o0, 0o0, 0o1000⟩ 0o341 [(0o1000, 0o106700)])) [] =
      some (⟨0o177741, 0o0, 0o0, 0o0, 0o0, 0o0, 0o0, 0o1002⟩, 0o351, .running, []) := by decide

/-- T-SOP-56: MFPS (R1). -/
theorem test_mfps_odd_address :
    after (step (small ⟨0o0, 0o2001, 0o0, 0o0, 0o0, 0o0, 0o0, 0o1000⟩ 0o104 [(0o1000, 0o106711), (0o2000, 0o0)])) [0o2000] =
      some (⟨0o0, 0o2001, 0o0, 0o0, 0o0, 0o0, 0o0, 0o1002⟩, 0o100, .running, [0o42000]) := by decide

/-- T-BR-2: BR .+2-256. -/
theorem test_br_farthest_back :
    after (step (small ⟨0o0, 0o0, 0o0, 0o0, 0o0, 0o0, 0o0, 0o1000⟩ 0o0 [(0o1000, 0o600)])) [] =
      some (⟨0o0, 0o0, 0o0, 0o0, 0o0, 0o0, 0o0, 0o402⟩, 0o0, .running, []) := by decide

/-- T-BR-7: BPL .+2-2. -/
theorem test_bpl_is_no_byte_swab :
    after (step (small ⟨0o0, 0o0, 0o0, 0o0, 0o0, 0o0, 0o0, 0o1000⟩ 0o0 [(0o1000, 0o100377)])) [] =
      some (⟨0o0, 0o0, 0o0, 0o0, 0o0, 0o0, 0o0, 0o1000⟩, 0o0, .running, []) := by decide

/-- T-CC-7: (CLV+CLC). -/
theorem test_clx_combination :
    after (step (small ⟨0o0, 0o0, 0o0, 0o0, 0o0, 0o0, 0o0, 0o1000⟩ 0o17 [(0o1000, 0o243)])) [] =
      some (⟨0o0, 0o0, 0o0, 0o0, 0o0, 0o0, 0o0, 0o1002⟩, 0o14, .running, []) := by decide

/-- T-CC-8: (SEZ+SEC). -/
theorem test_sex_combination :
    after (step (small ⟨0o0, 0o0, 0o0, 0o0, 0o0, 0o0, 0o0, 0o1000⟩ 0o0 [(0o1000, 0o265)])) [] =
      some (⟨0o0, 0o0, 0o0, 0o0, 0o0, 0o0, 0o0, 0o1002⟩, 0o5, .running, []) := by decide

/-- T-MISC-3: JSR R5,(R1). -/
theorem test_jsr_pushes_old_linkage :
    after (step (small ⟨0o0, 0o1100, 0o0, 0o0, 0o0, 0o555, 0o2000, 0o1000⟩ 0o0 [(0o1000, 0o4511)])) [0o1776] =
      some (⟨0o0, 0o1100, 0o0, 0o0, 0o0, 0o1002, 0o1776, 0o1100⟩, 0o0, .running, [0o555]) := by decide

/-- T-MISC-5: JSR PC,@(SP)+. -/
theorem test_jsr_coroutine :
    after (step (small ⟨0o0, 0o0, 0o0, 0o0, 0o0, 0o0, 0o1776, 0o1000⟩ 0o0 [(0o1000, 0o4736), (0o1776, 0o1100)])) [0o1776] =
      some (⟨0o0, 0o0, 0o0, 0o0, 0o0, 0o0, 0o1776, 0o1100⟩, 0o0, .running, [0o1002]) := by decide

/-- T-MISC-4: RTS R5. -/
theorem test_rts_pops_linkage :
    after (step (small ⟨0o0, 0o0, 0o0, 0o0, 0o0, 0o1002, 0o1776, 0o1000⟩ 0o0 [(0o1000, 0o205), (0o1776, 0o555)])) [] =
      some (⟨0o0, 0o0, 0o0, 0o0, 0o0, 0o555, 0o2000, 0o1002⟩, 0o0, .running, []) := by decide

/-- T-MISC-11: JMP @(R1)+. -/
theorem test_jmp_deferred_autoincrement :
    after (step (small ⟨0o0, 0o2000, 0o0, 0o0, 0o0, 0o0, 0o0, 0o1000⟩ 0o0 [(0o1000, 0o131), (0o2000, 0o1100)])) [] =
      some (⟨0o0, 0o2002, 0o0, 0o0, 0o0, 0o0, 0o0, 0o1100⟩, 0o0, .running, []) := by decide

/-- T-MISC-16: HALT. -/
theorem test_halt_halts :
    after (step (small ⟨0o0, 0o0, 0o0, 0o0, 0o0, 0o0, 0o0, 0o1000⟩ 0o12 [(0o1000, 0o0)])) [] =
      some (⟨0o0, 0o0, 0o0, 0o0, 0o0, 0o0, 0o0, 0o1002⟩, 0o12, .halted, []) := by decide

/-- T-MISC-17: WAIT. -/
theorem test_wait_waits :
    after (step (small ⟨0o0, 0o0, 0o0, 0o0, 0o0, 0o0, 0o0, 0o1000⟩ 0o0 [(0o1000, 0o1)])) [] =
      some (⟨0o0, 0o0, 0o0, 0o0, 0o0, 0o0, 0o0, 0o1002⟩, 0o0, .waiting, []) := by decide

/-- T-MISC-19: RESET. -/
theorem test_reset_keeps_registers :
    after (step (small ⟨0o1234, 0o0, 0o0, 0o0, 0o0, 0o0, 0o0, 0o1000⟩ 0o12 [(0o1000, 0o5)])) [] =
      some (⟨0o1234, 0o0, 0o0, 0o0, 0o0, 0o0, 0o0, 0o1002⟩, 0o12, .running, []) := by decide

/-- T-MISC-20: RTI. -/
theorem test_rti_pops_pc_then_ps :
    after (step (small ⟨0o0, 0o0, 0o0, 0o0, 0o0, 0o0, 0o1774, 0o1000⟩ 0o0 [(0o1000, 0o2), (0o1774, 0o1234), (0o1776, 0o351)])) [] =
      some (⟨0o0, 0o0, 0o0, 0o0, 0o0, 0o0, 0o2000, 0o1234⟩, 0o351, .running, []) := by decide

/-- T-TRAP-1: BPT (000004) at 0o1000. -/
theorem test_bpt_traps :
    after (step (small ⟨0o0, 0o0, 0o0, 0o0, 0o0, 0o0, 0o2000, 0o1000⟩ 0o5 [(0o14, 0o3000), (0o16, 0o340), (0o1000, 0o4)])) [0o1774, 0o1776] =
      some (⟨0o0, 0o0, 0o0, 0o0, 0o0, 0o0, 0o1774, 0o3000⟩, 0o340, .running, [0o1002, 0o5]) := by decide

/-- T-TRAP-2: unused word 000007 at 0o1000. -/
theorem test_unused000007_traps :
    after (step (small ⟨0o0, 0o0, 0o0, 0o0, 0o0, 0o0, 0o2000, 0o1000⟩ 0o11 [(0o10, 0o3100), (0o12, 0o340), (0o1000, 0o7)])) [0o1774, 0o1776] =
      some (⟨0o0, 0o0, 0o0, 0o0, 0o0, 0o0, 0o1774, 0o3100⟩, 0o340, .running, [0o1002, 0o11]) := by decide

/-- T-TRAP-5: WAIT at 0o1000, the same device. -/
theorem test_wait_ended_by_interrupt :
    after (step ({ small ⟨0o0, 0o0, 0o0, 0o0, 0o0, 0o0, 0o2000, 0o1000⟩ 0o1 [(0o60, 0o3200), (0o62, 0o200), (0o1000, 0o1)] with pending := [⟨0o60, 4⟩], params := { Params.chosen with devices := [0o177560] } })) [0o1774, 0o1776] =
      some (⟨0o0, 0o0, 0o0, 0o0, 0o0, 0o0, 0o1774, 0o3200⟩, 0o200, .running, [0o1002, 0o1]) := by decide

/-- T-TRAP-6: INC (R3)+ (005223) with R3 odd. -/
theorem test_odd_operand_keeps_increment :
    after (step (small ⟨0o0, 0o0, 0o0, 0o2001, 0o0, 0o0, 0o2000, 0o1000⟩ 0o4 [(0o4, 0o3300), (0o6, 0o340), (0o1000, 0o5223)])) [0o1774, 0o1776] =
      some (⟨0o0, 0o0, 0o0, 0o2003, 0o0, 0o0, 0o1774, 0o3300⟩, 0o340, .running, [0o1002, 0o4]) := by decide

/-- T-TRAP-9: JMP R1 (000101). -/
theorem test_jmp_register_traps :
    after (step (small ⟨0o0, 0o1100, 0o0, 0o0, 0o0, 0o0, 0o2000, 0o1000⟩ 0o2 [(0o4, 0o3300), (0o6, 0o340), (0o1000, 0o101)])) [0o1774, 0o1776] =
      some (⟨0o0, 0o1100, 0o0, 0o0, 0o0, 0o0, 0o1774, 0o3300⟩, 0o340, .running, [0o1002, 0o2]) := by decide

/-- The example of R114: `MUL R1,R2`. -/
theorem test_mul_signed :
    after (step (small ⟨0o0, 0o177776, 0o3, 0o0, 0o0, 0o0, 0o0, 0o1000⟩ 0o0 [(0o1000, 0o070201)])) [] =
      some (⟨0o0, 0o177776, 0o177777, 0o177772, 0o0, 0o0, 0o0, 0o1002⟩, 0o10, .running, []) := by decide

/-- A corner case of R114: 0o100000 times itself is 2^30. -/
theorem test_mul_carry :
    after (step (small ⟨0o100000, 0o0, 0o0, 0o0, 0o0, 0o0, 0o0, 0o1000⟩ 0o0 [(0o1000, 0o070000)])) [] =
      some (⟨0o040000, 0o0, 0o0, 0o0, 0o0, 0o0, 0o0, 0o1002⟩, 0o1, .running, []) := by decide

/-- A corner case of R115: -7 / 2 = -3 remainder -1. -/
theorem test_div_negative_dividend :
    after (step (small ⟨0o177777, 0o177771, 0o2, 0o0, 0o0, 0o0, 0o0, 0o1000⟩ 0o0 [(0o1000, 0o071002)])) [] =
      some (⟨0o177775, 0o177777, 0o2, 0o0, 0o0, 0o0, 0o0, 0o1002⟩, 0o10, .running, []) := by decide

/-- The examples of R116. -/
theorem test_ash_left :
    after (step (small ⟨0o1, 0o0, 0o0, 0o0, 0o0, 0o0, 0o0, 0o1000⟩ 0o0 [(0o1000, 0o072027), (0o1002, 0o3)])) [] =
      some (⟨0o10, 0o0, 0o0, 0o0, 0o0, 0o0, 0o0, 0o1004⟩, 0o0, .running, []) := by decide

theorem test_ash_right :
    after (step (small ⟨0o100001, 0o0, 0o0, 0o0, 0o0, 0o0, 0o0, 0o1000⟩ 0o0
      [(0o1000, 0o072027), (0o1002, 0o177777)])) [] =
      some (⟨0o140000, 0o0, 0o0, 0o0, 0o0, 0o0, 0o0, 0o1004⟩, 0o11, .running, []) := by decide

/-- The example of R117. -/
theorem test_ashc_across_the_pair :
    after (step (small ⟨0o0, 0o100000, 0o0, 0o0, 0o0, 0o0, 0o0, 0o1000⟩ 0o0 [(0o1000, 0o073027), (0o1002, 0o1)])) [] =
      some (⟨0o1, 0o0, 0o0, 0o0, 0o0, 0o0, 0o0, 0o1004⟩, 0o0, .running, []) := by decide

/-- The example of R118. -/
theorem test_xor :
    after (step (small ⟨0o177777, 0o52525, 0o0, 0o0, 0o0, 0o0, 0o0, 0o1000⟩ 0o0 [(0o1000, 0o074001)])) [] =
      some (⟨0o177777, 0o125252, 0o0, 0o0, 0o0, 0o0, 0o0, 0o1002⟩, 0o10, .running, []) := by decide

/-- The example of R121: `SOB R2,L` at 0o1016 with L at 0o1012. -/
theorem test_sob_branches_back :
    after (step (small ⟨0o0, 0o0, 0o2, 0o0, 0o0, 0o0, 0o0, 0o1016⟩ 0o0 [(0o1016, 0o077203)])) [] =
      some (⟨0o0, 0o0, 0o1, 0o0, 0o0, 0o0, 0o0, 0o1012⟩, 0o0, .running, []) := by decide

theorem test_sob_falls_through :
    after (step (small ⟨0o0, 0o0, 0o1, 0o0, 0o0, 0o0, 0o0, 0o1016⟩ 0o0 [(0o1016, 0o077203)])) [] =
      some (⟨0o0, 0o0, 0o0, 0o0, 0o0, 0o0, 0o0, 0o1020⟩, 0o0, .running, []) := by decide

/-- T-MISC-28: with `EIS_PRESENT` false. -/
theorem test_mul_refused_without_eis :
    stopOf (exec (.mul .r0 ⟨.register, .r1⟩) { State.reset with params := { Params.chosen with eisPresent := false } }) =
      some (.inr (.eisAbsent "MUL")) := by decide

/-- The branch matrix of spec/95_test_vectors.md at NZVC = 1010 and 0101, offset 3 from 0o1002. -/
theorem test_branches_at_nv :
    (let s := small ⟨0, 0, 0, 0, 0, 0, 0, 0o1002⟩ 0o12 []
     [exec (.br 3#8) s, exec (.bne 3#8) s, exec (.beq 3#8) s, exec (.bge 3#8) s, exec (.blt 3#8) s, exec (.bgt 3#8) s,
      exec (.ble 3#8) s, exec (.bpl 3#8) s, exec (.bmi 3#8) s, exec (.bhi 3#8) s, exec (.blos 3#8) s, exec (.bvc 3#8) s,
      exec (.bvs 3#8) s, exec (.bcc 3#8) s, exec (.bcs 3#8) s, exec (.bhis 3#8) s, exec (.blo 3#8) s].map pcOf) =
      [some 0o1010, some 0o1010, some 0o1002, some 0o1010, some 0o1002, some 0o1010, some 0o1002, some 0o1002,
       some 0o1010, some 0o1010, some 0o1002, some 0o1002, some 0o1010, some 0o1010, some 0o1002, some 0o1010,
       some 0o1002] := by decide

theorem test_branches_at_zc :
    (let s := small ⟨0, 0, 0, 0, 0, 0, 0, 0o1002⟩ 0o5 []
     [exec (.br 3#8) s, exec (.bne 3#8) s, exec (.beq 3#8) s, exec (.bge 3#8) s, exec (.blt 3#8) s, exec (.bgt 3#8) s,
      exec (.ble 3#8) s, exec (.bpl 3#8) s, exec (.bmi 3#8) s, exec (.bhi 3#8) s, exec (.blos 3#8) s, exec (.bvc 3#8) s,
      exec (.bvs 3#8) s, exec (.bcc 3#8) s, exec (.bcs 3#8) s, exec (.bhis 3#8) s, exec (.blo 3#8) s].map pcOf) =
      [some 0o1010, some 0o1002, some 0o1010, some 0o1010, some 0o1002, some 0o1002, some 0o1010, some 0o1010,
       some 0o1002, some 0o1002, some 0o1010, some 0o1010, some 0o1002, some 0o1002, some 0o1010, some 0o1002,
       some 0o1010] := by decide

/-- R193, E8: the named condition-code words, each on NZVC = 1111 or 0000. -/
theorem test_named_clears :
    (let s := small ⟨0, 0, 0, 0, 0, 0, 0, 0⟩ 0o17 []
     [exec .nop240 s, exec .clc s, exec .clv s, exec .clz s, exec .cln s, exec .ccc s].map fun x => after x []) =
      [0o17, 0o16, 0o15, 0o13, 0o7, 0o0].map fun p => some (⟨0, 0, 0, 0, 0, 0, 0, 0⟩, p, .running, []) := by decide

theorem test_named_sets :
    (let s := small ⟨0, 0, 0, 0, 0, 0, 0, 0⟩ 0o0 []
     [exec .nop260 s, exec .sec s, exec .sev s, exec .sez s, exec .sen s, exec .scc s].map fun x => after x []) =
      [0o0, 0o1, 0o2, 0o4, 0o10, 0o17].map fun p => some (⟨0, 0, 0, 0, 0, 0, 0, 0⟩, p, .running, []) := by decide

/-- R222, R224 with the supplement: RTT pops the PC and the PS, EMT and TRAP take their vectors. -/
def supplemented : State :=
  { small ⟨0, 0, 0, 0, 0, 0, 0o1774, 0o1002⟩ 0o0
      [(0o30, 0o3000), (0o32, 0o340), (0o34, 0o3100), (0o36, 0o341), (0o1774, 0o1234), (0o1776, 0o11)] with
    params := { Params.chosen with supplementPresent := true } }

theorem test_rtt : after (exec .unlisted000006 supplemented) [] =
    some (⟨0, 0, 0, 0, 0, 0, 0o2000, 0o1234⟩, 0o11, .running, []) := by decide

theorem test_emt : after (exec (.unlisted1040xx 7#8) supplemented) [0o1772, 0o1770] =
    some (⟨0, 0, 0, 0, 0, 0, 0o1770, 0o3000⟩, 0o340, .running, [0o0, 0o1002]) := by decide

theorem test_trap : after (exec (.unlisted1044xx 7#8) supplemented) [0o1772, 0o1770] =
    some (⟨0, 0, 0, 0, 0, 0, 0o1770, 0o3100⟩, 0o341, .running, [0o0, 0o1002]) := by decide

/-- The stops of R122, R123, R200, R201, R115, R117 and R85. -/
theorem test_stops :
    [exec (.fadd .r1) State.reset, exec (.fsub .r1) State.reset, exec (.fmul .r1) State.reset,
      exec (.fdiv .r1) State.reset, exec (.space1111 5#12) State.reset, exec (.jsr .r6 ⟨.deferred, .r1⟩) State.reset,
      exec (.rts .r6) State.reset, exec (.div .r1 ⟨.register, .r0⟩) State.reset,
      exec (.ashc .r3 ⟨.register, .r0⟩) State.reset,
      exec (.mov ⟨.register, .r2⟩ ⟨.autoInc, .r2⟩) { State.reset with params := { Params.chosen with sameReg := .refuse } }].map
        stopOf =
      [some (.inr (.floatingInstructionSet "FADD")), some (.inr (.floatingInstructionSet "FSUB")),
       some (.inr (.floatingInstructionSet "FMUL")), some (.inr (.floatingInstructionSet "FDIV")),
       some (.inr .undefinedEisSpace), some (.inr (.linkageRegisterSp "JSR")), some (.inr (.linkageRegisterSp "RTS")),
       some (.inr (.oddRegisterPair "DIV")), some (.inr (.oddRegisterPair "ASHC")), some (.inr .sameRegister)] := by decide

/-- The host's placement: the instruction is the one the next step runs, its operand words zero. -/
theorem test_withFetchWord_runs :
    after (step (State.reset.withFetchWord 16 0o012702)) [] =
      some (⟨0, 0, 0, 0, 0, 0, 0o1000, 0o1004⟩, 0o4, .running, []) := by decide

theorem test_reset_memory_faults : stopOf (step State.reset) = some (.inl (.unwrittenMemory 0o1000)) := by decide


/-! ## Witnesses: for every statement with hypotheses, a state and operands that meet them -/

/-- A state for the witnesses: R0 a pointer to a pointer, R1 odd, a stack at 0o1400, every vector set. -/
def wit : State :=
  small ⟨0o2000, 0o2101, 0o3, 0o2000, 0o157776, 0o1100, 0o1400, 0o1002⟩ 0o5
    [(0o4, 0o3000), (0o6, 0o340), (0o10, 0o3100), (0o12, 0o340), (0o14, 0o3200), (0o16, 0o341), (0o20, 0o3300),
     (0o22, 0o340), (0o24, 0o3400), (0o26, 0o340), (0o30, 0o3500), (0o32, 0o340), (0o34, 0o3600), (0o36, 0o340),
     (0o60, 0o3700), (0o62, 0o200), (0o1000, 0o5067), (0o1002, 0o74), (0o1100, 0o2100), (0o1400, 0o1234),
     (0o1402, 0o31), (0o2000, 0o2100), (0o2100, 0o7), (0o157776, 0o177777)]

/-- `wit` with R0 just above RAM, to be stepped down to its last word or byte. -/
def witTop : State := wit.setReg .r0 0o160000

/-- `wit` with R4 at the last byte of RAM. -/
def witLast : State := wit.setReg .r4 0o157777

/-- `wit` with R0 at the two words of the stack, the first greater than the second. -/
def witPair : State := wit.setReg .r0 0o1400

/-- `wit` under other parameters. -/
def witWith (p : Params) : State := { wit with params := p }

/-- The parameters of reset with one device register. -/
def withDevice : Params := { Params.chosen with devices := [0o177560] }

/-- `wit` with a device that makes the stores given, a group before each of the next accesses. -/
def witDma (groups : List (List DeviceStore)) : State := { wit with params := withDevice, transfers := groups }

theorem wit_quiet {n : Nat} {f : Nat → Nat} : ∀ k < n, ¬ wit.DeviceStoresTo (f k) :=
  fun _ _ h => by simp [State.DeviceStoresTo, show wit.transfers = [] from rfl] at h

theorem witness_DecodeEncodeRoundTrip : (Instr.sub ⟨.indexDef, .r7⟩ ⟨.autoDecDef, .r6⟩).wellFormed = true := by decide

/-- The word at the PC as it stands, and one whose high byte a device stores before the fetch. -/
theorem witness_StepRunsDecodedInstruction :
    (let s := wit.setReg .r7 0o1000
     s.run = .running ∧ isOdd s.pc = false ∧ region s.params s.pc 2 = .ram ∧
      s.busTurn.mem.read s.pc.toNat = some 0o67 ∧ s.busTurn.mem.read (s.pc + 1#16).toNat = some 0o12 ∧
      decode [0o67, 0o12] = .ok (.clr ⟨.index, .r7⟩, [])) ∧
    (let s := (witDma [[⟨0o1001, 0o5⟩]]).setReg .r7 0o1000
     s.run = .running ∧ isOdd s.pc = false ∧ region s.params s.pc 2 = .ram ∧
      s.busTurn.mem.read s.pc.toNat = some 0o67 ∧ s.busTurn.mem.read (s.pc + 1#16).toNat = some 0o5 ∧
      decode [0o67, 0o5] = .ok (.blt 0o67, [])) := by decide

theorem witness_OddFetchTraps :
    (wit.setReg .r7 0o1001).run = .running ∧ isOdd (wit.setReg .r7 0o1001).pc = true := by decide

/-- Both clauses; the request of the second stands at the processor's own priority. -/
theorem witness_StoppedMachineMakesNoStep :
    ({ wit with run := .halted } : State).run = .halted ∧
      (let s : State := { wit with params := withDevice, run := .waiting, ps := 0o200, pending := [⟨0o60, 4⟩] }
       s.run = .waiting ∧ s.traceArmed = false ∧ s.powerFail = false ∧ s.haltRequest = false ∧
        ∀ r ∈ s.pending, r.level.val ≤ s.priority) := by decide

theorem witness_QuietBoundaryChangesNothing :
    let s : State := { wit with params := withDevice, ps := 0o200, pending := [⟨0o60, 4⟩] }
    s.traceArmed = false ∧ s.powerFail = false ∧ s.haltRequest = false ∧ ∀ r ∈ s.pending, r.level.val ≤ s.priority := by
  decide

/-- A program of two words at 0o1000, data above it, and a stack of 0o400 bytes between the vector area and the program. -/
def witLayout : Layout where
  program := [0o012700, 0o5]
  data := [{ base := 0o1004, size := 2 }]
  stackSize := 0o400

/-- The two clauses with hypotheses: parameters under which a loaded program may start, and a state that starts it. -/
theorem witness_ResetStartState :
    (isOdd Params.chosen.resetPc = false ∧ (Params.chosen.resetPs &&& Params.chosen.psMask).getLsbD 4 = false ∧
      Params.chosen.resetPc.toNat + 2 * witLayout.program.length ≤ Params.chosen.ramTop ∧
      Params.chosen.ramTop ≤ 0o160000 ∧ (State.resetWith Params.chosen).stackFits witLayout = true) ∧
    (State.reset.load witLayout).starts witLayout = true := by decide

/-- What R263 asks, each condition failing by itself: PC odd, SP odd, T set, not running, a request pending, a word of the
program missing, a stack that reaches into the vector area, one that meets data. -/
theorem test_starts_refuses :
    (let s := State.reset.load witLayout
     [(s.setReg .r7 0o1001).starts witLayout, (s.setReg .r6 0o777).starts { witLayout with stackSize := 0o376 },
      ({ s with ps := 0o20 } : State).starts witLayout, ({ s with run := .waiting } : State).starts witLayout,
      ({ s with pending := [⟨0o60, 4⟩] } : State).starts witLayout, State.reset.starts witLayout,
      s.starts { witLayout with stackSize := 0o402 },
      s.starts { witLayout with data := [{ base := 0o776, size := 2 }] }]) = List.replicate 8 false := by decide

/-- The three clauses of InputsKeepInvariant: a sound state, one with no device and one with a device. -/
theorem witness_InputsKeepInvariant :
    wit.Inv ∧ wit.params.devices = [] ∧ (witDma []).Inv ∧ (witDma []).params.devices ≠ [] := by decide

/-- For StepKeepsInvariant and StepKeepsParameters. -/
theorem witness_StepKeepsInvariant :
    (wit.setReg .r7 0o1000).Inv ∧ ∃ t, step (wit.setReg .r7 0o1000) = .next t := ⟨by decide, _, rfl⟩

/-- An instruction that completes, and one that traps: a word operand at an odd address. -/
theorem witness_OnlyTrapsAndReturnsWriteControlBits :
    wit.Inv ∧ (∃ t, exec (.mtps ⟨.register, .r2⟩) wit = .next t) ∧
      ∃ t, exec (.clr ⟨.deferred, .r1⟩) wit = .next t ∧ Traps (.clr ⟨.deferred, .r1⟩) wit (.oddAddress 0o2101) wit :=
  ⟨by decide, ⟨_, rfl⟩, _, rfl, rfl⟩

/-- The lowest word and the highest word of RAM. -/
theorem witness_WordIsLittleEndian :
    (isOdd 0o4#16 = false ∧ region wit.params 0o4 2 = .ram ∧ wit.busTurn.mem.read 4 = some 0o0 ∧
      wit.busTurn.mem.read 5 = some 0o6) ∧
    (isOdd 0o157776#16 = false ∧ region wit.params 0o157776 2 = .ram ∧ wit.busTurn.mem.read 0o157776 = some 0o377 ∧
      wit.busTurn.mem.read 0o157777 = some 0o377) ∧
    (wit.setReg .r7 0o157776).pc = 0o157776 := by decide

/-- The last word of RAM; a store by a device to its last byte; two groups of stores around the two reads of one word. -/
theorem witness_MixedWidths :
    (isOdd 0o157776#16 = false ∧ region wit.params 0o157776 2 = .ram ∧ ¬ wit.DeviceStoresTo 0o157776 ∧
      ¬ wit.DeviceStoresTo 0o157777) ∧
    (let s := witDma [[⟨0o157777, 0o1⟩, ⟨0o157777, 0o2⟩], []]
     s.transfers = ([⟨0o157777, 0o1⟩] ++ [⟨0o157777, 0o2⟩]) :: [[]] ∧ region s.params 0o157777 1 = .ram) ∧
    (let s := witDma [[], [⟨0o157776, 0o5⟩, ⟨0o157777, 0o0⟩]]
     isOdd (s.reg .r4) = false ∧ region s.params (s.reg .r4) 2 = .ram ∧ HoldsWord s (s.reg .r4) 0o177777 ∧
      s.transfers = [] :: [⟨s.reg .r4, lowByte 0o5⟩, ⟨s.reg .r4 + 1#16, highByte 0o5⟩] :: []) :=
  ⟨⟨by decide, by decide, fun h => by simp [State.DeviceStoresTo, show wit.transfers = [] from rfl] at h,
    fun h => by simp [State.DeviceStoresTo, show wit.transfers = [] from rfl] at h⟩, by decide, by decide⟩

/-- R44: CMP (R0),(R0) sees two values when a device stores between the two reads; the first access is the fetch. -/
theorem test_compare_sees_two_values :
    after (step { small ⟨0o2000, 0o0, 0o0, 0o0, 0o0, 0o0, 0o0, 0o1000⟩ 0o0 [(0o1000, 0o021010), (0o2000, 0o7)] with
      params := withDevice, transfers := [[], [], [⟨0o2000, 0o10⟩]] }) [0o2000] =
      some (⟨0o2000, 0o0, 0o0, 0o0, 0o0, 0o0, 0o0, 0o1002⟩, 0o11, .running, [0o10]) := by decide

/-- An odd address; a word and a byte just above RAM; the last word and the last byte of RAM; a device register. -/
theorem witness_AccessExceptions :
    isOdd 0o157777#16 = true ∧ (isOdd 0o160000#16 = false ∧ region wit.params 0o160000 2 = .absent) ∧
      region wit.params 0o160000 1 = .absent ∧
    (isOdd 0o157776#16 = false ∧ region wit.params 0o157776 2 ≠ .absent ∧ region wit.params 0o157776 2 = .ram ∧
      HoldsWord wit.busTurn 0o157776 0o177777) ∧
    (region wit.params 0o157777 1 ≠ .absent ∧ region wit.params 0o157777 1 = .ram ∧
      wit.busTurn.mem.read (0o157777#16).toNat = some 0o377) ∧
    (isOdd 0o177560#16 = false ∧ region withDevice 0o177560 2 ≠ .absent ∧ region withDevice 0o177560 2 = .device) ∧
    (region withDevice 0o177561 1 ≠ .absent ∧ region withDevice 0o177561 1 = .device) := by decide

/-- A pointer read for mode 3, one for mode 5, an index word and a pointer for modes 6 and 7. -/
theorem witness_ModesGiveLocations :
    (∃ t, readWord (wit.reg .r0) wit = .ok 0o2100 t) ∧
    (∃ t, readWord (0o2002#16 - 2#16) ((wit.setReg .r0 0o2002).setReg .r0 (0o2002#16 - 2#16)) = .ok 0o2100 t) ∧
    (∃ t, readWord wit.pc wit = .ok 0o74 t ∧
      ∃ u, readWord (wit.pc + 2#16 + 0o74#16) (t.setReg .r7 (wit.pc + 2#16)) = .ok 0o2100 u) :=
  ⟨⟨_, rfl⟩, ⟨_, rfl⟩, ⟨_, rfl, _, rfl⟩⟩

theorem witness_RegisterSevenModes :
    wit.pc = 0o1000#16 + 2#16 ∧ isOdd 0o1000#16 = false ∧ region wit.params (0o1000#16 + 2#16) 2 = .ram ∧
      HoldsWord wit.busTurn (0o1000#16 + 2#16) 0o74 ∧ isOdd (0o1000#16 + 4#16 + 0o74#16) = false ∧
      region wit.params (0o1000#16 + 4#16 + 0o74#16) 2 = .ram ∧
      HoldsWord (wit.busTurn.setReg .r7 (0o1000#16 + 4#16)).busTurn (0o1000#16 + 4#16 + 0o74#16) 0o2100 := by
  decide

theorem witness_ResolveFrame : ∃ l t, resolve .byte ⟨.indexDef, .r7⟩ wit = .ok l t := ⟨_, _, rfl⟩

/-- The three values of the parameter, a register that is not R7, and the pointers of the two deferred forms. -/
theorem witness_SameRegisterForms :
    (Reg.r6 ≠ .r7 ∧ (witWith { Params.chosen with sameReg := .refuse }).params.sameReg = .refuse ∧
      wit.params.sameReg ≠ .refuse ∧ wit.params.sameReg = .initial ∧
      (witWith { Params.chosen with sameReg := .modified }).params.sameReg ≠ .refuse ∧
      Mode.autoIncDef ∈ [Mode.autoInc, .autoDec, .autoIncDef, .autoDecDef]) ∧
    (∃ t, readWord (wit.reg .r6) wit = .ok 0o1234 t) ∧
    (∃ t, readWord ((wit.setReg .r6 0o1402).reg .r6 - 2#16)
      ((wit.setReg .r6 0o1402).setReg .r6 ((wit.setReg .r6 0o1402).reg .r6 - 2#16)) = .ok 0o1234 t) :=
  ⟨by decide, ⟨_, rfl⟩, ⟨_, rfl⟩⟩

/-- Pointers and following words at an odd and at an unanswered address. -/
theorem witness_OddOperandTraps_pointers :
    (∃ u, readWord (wit.reg .r1) wit = .exn (.oddAddress 0o2101) u) ∧
    (∃ u, readWord (witTop.reg .r0) witTop = .exn (.busTimeout 0o160000) u) ∧
    (∃ u, readWord (wit.reg .r1 - 2#16) (wit.setReg .r1 (wit.reg .r1 - 2#16)) = .exn (.oddAddress 0o2077) u) ∧
    (∃ u, readWord (wit.setReg .r7 0o160000).pc (wit.setReg .r7 0o160000) = .exn (.busTimeout 0o160000) u) ∧
    (∃ x t u, fetch wit = .ok x t ∧ readWord (t.reg .r1 + x) t = .exn (.oddAddress 0o2175) u) :=
  ⟨⟨_, rfl⟩, ⟨_, rfl⟩, ⟨_, rfl⟩, ⟨_, rfl⟩, ⟨_, _, _, rfl, rfl⟩⟩

/-- An operand at an odd address, one just above RAM as a word and as a byte, and one whose pointer is odd. -/
theorem witness_OddOperandTraps_operands :
    (∃ u, OperandRaises .word ⟨.autoInc, .r1⟩ wit (.oddAddress 0o2101) u) ∧
    (∃ u, OperandRaises .word ⟨.deferred, .r0⟩ witTop (.busTimeout 0o160000) u) ∧
    (∃ u, OperandRaises .byte ⟨.autoInc, .r0⟩ witTop (.busTimeout 0o160000) u) ∧
    (∃ u, OperandRaises .byte ⟨.autoIncDef, .r1⟩ wit (.oddAddress 0o2101) u) ∧
    (∃ u, resolve .word ⟨.autoIncDef, .r1⟩ wit = .exn (.oddAddress 0o2101) u) ∧
    wit.params.eisPresent = true ∧ oddPartner .r2 ≠ .r2 :=
  ⟨⟨_, .inr ⟨_, _, rfl, .inl ⟨rfl, rfl, rfl, rfl⟩⟩⟩, ⟨_, .inr ⟨_, _, rfl, .inr ⟨fun _ => rfl, rfl, rfl, rfl⟩⟩⟩,
    ⟨_, .inr ⟨_, _, rfl, .inr ⟨(fun h => by cases h), rfl, rfl, rfl⟩⟩⟩, ⟨_, .inl rfl⟩, ⟨_, rfl⟩, by decide, by decide⟩

/-- A source that is read and a destination at which something raises, as words and as bytes. -/
theorem witness_OddOperandTraps_destinations :
    (∃ t u, readOperandWord ⟨.register, .r2⟩ wit = .ok 0o3 t ∧
      sameRegisterForm ⟨.register, .r2⟩ ⟨.autoInc, .r1⟩ = false ∧
      OperandRaises .word ⟨.autoInc, .r1⟩ t (.oddAddress 0o2101) u) ∧
    (∃ t u, readOperandByte ⟨.register, .r2⟩ witTop = .ok 0o3 t ∧
      sameRegisterForm ⟨.register, .r2⟩ ⟨.deferred, .r0⟩ = false ∧
      OperandRaises .byte ⟨.deferred, .r0⟩ t (.busTimeout 0o160000) u) :=
  ⟨⟨_, _, rfl, by decide, .inr ⟨_, _, rfl, .inl ⟨rfl, rfl, rfl, rfl⟩⟩⟩,
    ⟨_, _, rfl, by decide, .inr ⟨_, _, rfl, .inr ⟨(fun h => by cases h), rfl, rfl, rfl⟩⟩⟩⟩

/-- A register and a memory destination for each width; the memory ones are the last word and the last byte of RAM. -/
theorem witness_MoveResults :
    wit.Inv ∧
    (∃ s1, sourceDestWord ⟨.autoInc, .r0⟩ ⟨.deferred, .r4⟩ wit = .ok (0o2100, .mem 0o157776) s1 ∧
      WordReady s1 (.mem 0o157776)) ∧
    (∃ s1, sourceDestWord ⟨.register, .r0⟩ ⟨.register, .r0⟩ wit = .ok (0o2000, .reg .r0) s1 ∧ WordReady s1 (.reg .r0)) ∧
    (∃ s1, sourceDestByte ⟨.autoInc, .r0⟩ ⟨.register, .r4⟩ wit = .ok (0o100, .reg .r4) s1 ∧ ByteReady s1 (.reg .r4)) ∧
    witLast.Inv ∧
    (∃ s1, sourceDestByte ⟨.autoInc, .r0⟩ ⟨.deferred, .r4⟩ witLast = .ok (0o100, .mem 0o157777) s1 ∧
      ByteReady s1 (.mem 0o157777)) :=
  ⟨by decide, ⟨_, rfl, by decide⟩, ⟨_, rfl, trivial⟩, ⟨_, rfl, trivial⟩, by decide, ⟨_, rfl, by decide⟩⟩

theorem witness_DoubleWordResults :
    wit.Inv ∧ ∃ s1 s2, sourceDestWord ⟨.autoIncDef, .r0⟩ ⟨.autoInc, .r3⟩ wit = .ok (0o7, .mem 0o2000) s1 ∧
      readLocWord (.mem 0o2000) s1 = .ok 0o2100 s2 ∧ WordReady s2 (.mem 0o2000) :=
  ⟨by decide, _, _, rfl, rfl, by decide⟩

theorem witness_DoubleByteResults :
    witLast.Inv ∧ ∃ s1 s2, sourceDestByte ⟨.autoInc, .r6⟩ ⟨.deferred, .r4⟩ witLast =
        .ok (0o234, .mem 0o157777) s1 ∧
      readLocByte (.mem 0o157777) s1 = .ok 0o377 s2 ∧ ByteReady s2 (.mem 0o157777) :=
  ⟨by decide, _, _, rfl, rfl, by decide⟩

theorem witness_CompareResults :
    wit.Inv ∧ witPair.Inv ∧
    (∃ s1 s2, sourceDestWord ⟨.autoInc, .r0⟩ ⟨.autoInc, .r0⟩ witPair = .ok (0o1234, .mem 0o1402) s1 ∧
      readLocWord (.mem 0o1402) s1 = .ok 0o31 s2) ∧
    (∃ s1 s2, sourceDestByte ⟨.register, .r1⟩ ⟨.deferred, .r0⟩ wit = .ok (0o101, .mem 0o2000) s1 ∧
      readLocByte (.mem 0o2000) s1 = .ok 0o100 s2) :=
  ⟨by decide, by decide, ⟨_, _, rfl, rfl⟩, ⟨_, _, rfl, rfl⟩⟩

/-- For the statements over one word operand: WordArithmeticResults, WordShiftResults, ClearAndSignExtendResults,
TestResults, XorAndSobResults. -/
theorem witness_WordOperand :
    witTop.Inv ∧ witTop.params.eisPresent = true ∧
      ∃ s1 s2, resolve .word ⟨.autoDec, .r0⟩ witTop = .ok (.mem 0o157776) s1 ∧
        readLocWord (.mem 0o157776) s1 = .ok 0o177777 s2 ∧ WordReady s1 (.mem 0o157776) ∧ WordReady s2 (.mem 0o157776) :=
  ⟨by decide, by decide, _, _, rfl, rfl, by decide, by decide⟩

/-- For the statements over one byte operand: ByteArithmeticResults, ByteShiftResults, ClearAndSignExtendResults,
TestResults, StatusByteMoves (also with a `PS_MASK` that holds bit 7 alone of the priority). -/
theorem witness_ByteOperand :
    witTop.Inv ∧ { witTop with params := { Params.chosen with psMask := 0o237 } }.Inv ∧
      ∃ s1 s2, resolve .byte ⟨.autoDec, .r0⟩ witTop = .ok (.mem 0o157777) s1 ∧
        readLocByte (.mem 0o157777) s1 = .ok 0o377 s2 ∧ ByteReady s1 (.mem 0o157777) ∧ ByteReady s2 (.mem 0o157777) :=
  ⟨by decide, by decide, _, _, rfl, rfl, by decide, by decide⟩

/-- The stack word answered; at an odd address; just above RAM. -/
theorem witness_MarkResult :
    (∃ s1, readWord (0o1374#16 + 2#16 * (2#6).setWidth 16) (wit.setReg .r7 0o1374) = .ok 0o1234 s1) ∧
      isOdd ((wit.setReg .r7 0o1375).pc + 2#16 * (2#6).setWidth 16) = true ∧
      isOdd ((wit.setReg .r7 0o157774).pc + 2#16 * (2#6).setWidth 16) = false ∧
      region wit.params ((wit.setReg .r7 0o157774).pc + 2#16 * (2#6).setWidth 16) 2 = .absent :=
  ⟨⟨_, rfl⟩, by decide, by decide, by decide⟩

theorem witness_CompareThenBranch :
    wit.Inv ∧ ∃ s1 s2, sourceDestWord ⟨.register, .r4⟩ ⟨.register, .r2⟩ wit = .ok (0o157776, .reg .r2) s1 ∧
      readLocWord (.reg .r2) s1 = .ok 0o3 s2 := ⟨by decide, _, _, rfl, rfl⟩

/-- For JsrResult and JsrThenRts. -/
theorem witness_JsrThenRts :
    wit.Inv ∧ Mode.autoInc ≠ .register ∧ Reg.r5 ≠ .r6 ∧
      ∃ s1 t, resolve .word ⟨.autoInc, .r0⟩ wit = .ok (.mem 0o2000) s1 ∧ isOdd 0o2000#16 = false ∧
      WordReady s1 (.mem (s1.sp - 2#16)) ∧ isOdd (s1.sp - 2#16) = false ∧ region s1.params (s1.sp - 2#16) 2 = .ram ∧
      (∀ k < 2, ¬ wit.DeviceStoresTo ((s1.sp - 2#16).toNat + k)) ∧ exec (.jsr .r5 ⟨.autoInc, .r0⟩) wit = .next t :=
  ⟨by decide, by decide, by decide, _, _, rfl, by decide, by decide, by decide, by decide, wit_quiet, rfl⟩

/-- An odd target under both values of `ODD_JUMP`. -/
theorem witness_JsrResult_odd :
    (∃ s1, resolve .word ⟨.deferred, .r1⟩ wit = .ok (.mem 0o2101) s1) ∧ isOdd 0o2101#16 = true ∧
    wit.params.oddJump = .trap ∧
    (let s := witWith { Params.chosen with oddJump := .roundDown }
     s.Inv ∧ s.params.oddJump = .roundDown ∧
      ∃ s1, resolve .word ⟨.deferred, .r1⟩ s = .ok (.mem 0o2101) s1 ∧ WordReady s1 (.mem (s1.sp - 2#16))) :=
  ⟨⟨_, rfl⟩, by decide, by decide, by decide, by decide, _, rfl, by decide⟩

/-- The push with SP odd, with SP two above the end of RAM, and with SP at 0. -/
theorem witness_JsrResult_push :
    ((wit.setReg .r6 0o1401).Inv ∧ isOdd (wit.setReg .r6 0o1401).sp = true) ∧
    ((wit.setReg .r6 0o160002).Inv ∧ isOdd (wit.setReg .r6 0o160002).sp = false ∧
      region wit.params ((wit.setReg .r6 0o160002).sp - 2#16) 2 = .absent) ∧
    ((wit.setReg .r6 0).Inv ∧ isOdd (wit.setReg .r6 0).sp = false ∧
      region wit.params ((wit.setReg .r6 0).sp - 2#16) 2 = .absent) ∧
    isOdd 0o2000#16 = false := by decide

/-- Its destination, in each of them. -/
theorem witness_JsrResult_push_target (sp : Word) :
    resolve .word ⟨.deferred, .r0⟩ (wit.setReg .r6 sp) = .ok (.mem 0o2000) (wit.setReg .r6 sp) := rfl

/-- The three cases of RTS: a word on the stack, SP odd, SP just above RAM. -/
theorem witness_RtsResult :
    (∃ s1, readWord wit.sp wit = .ok 0o1234 s1) ∧ isOdd (wit.setReg .r6 0o1401).sp = true ∧
      isOdd (wit.setReg .r6 0o160000).sp = false ∧ region wit.params 0o160000 2 = .absent :=
  ⟨⟨_, rfl⟩, by decide, by decide, by decide⟩

theorem witness_JmpResult :
    (∃ s1, resolve .word ⟨.deferred, .r0⟩ wit = .ok (.mem 0o2000) s1) ∧ isOdd 0o2000#16 = false ∧
    (∃ s1, resolve .word ⟨.deferred, .r1⟩ wit = .ok (.mem 0o2101) s1) ∧ isOdd 0o2101#16 = true ∧
    wit.params.oddJump = .trap ∧ (witWith { Params.chosen with oddJump := .roundDown }).params.oddJump = .roundDown :=
  ⟨⟨_, rfl⟩, by decide, ⟨_, rfl⟩, by decide, by decide, by decide⟩

/-- For TrapEntryResult, ReservedWordsTrap and SoftwareTraps, one for each vector used. -/
theorem witness_TrapReady_odd : TrapReady wit wit.params.vectors.oddAddress 0o3000 0o340 := by decide
theorem witness_TrapReady_reserved : TrapReady wit wit.params.vectors.reservedInstruction 0o3100 0o340 := by decide
theorem witness_TrapReady_breakpoint : TrapReady wit wit.params.vectors.breakpoint 0o3200 0o341 := by decide
theorem witness_TrapReady_iot : TrapReady wit wit.params.vectors.iot 0o3300 0o340 := by decide
theorem witness_TrapReady_emt : TrapReady wit wit.params.vectors.emt 0o3500 0o340 := by decide
theorem witness_TrapReady_trap : TrapReady wit wit.params.vectors.trap 0o3600 0o340 := by decide

/-- The stack right above the vector, so that the first word pushed would be the vector's second. -/
theorem witness_TrapEntryResult_overlap :
    (wit.setReg .r6 0o10).Inv ∧ VectorReady (wit.setReg .r6 0o10) 0o4 0o3000 0o340 ∧
      (wit.setReg .r6 0o10).sp - 2#16 = 0o4#16 + 2#16 := by decide

/-- SP odd; SP two above the end of RAM, so that the first push is not answered; SP at 2, so that the second is not. -/
theorem witness_DoubleFaultHalts_stack :
    wit.params.wf = true ∧
    (VectorReady (wit.setReg .r6 0o1001) 0o4 0o3000 0o340 ∧ isOdd (wit.setReg .r6 0o1001).sp = true) ∧
    (VectorReady (wit.setReg .r6 0o160002) 0o4 0o3000 0o340 ∧ isOdd (wit.setReg .r6 0o160002).sp = false ∧
      stackOverlapsVector 0o4 (wit.setReg .r6 0o160002).sp = false ∧
      region wit.params ((wit.setReg .r6 0o160002).sp - 2#16) 2 = .absent) ∧
    (VectorReady (wit.setReg .r6 0o2) 0o4 0o3000 0o340 ∧ isOdd (wit.setReg .r6 0o2).sp = false ∧
      stackOverlapsVector 0o4 (wit.setReg .r6 0o2).sp = false ∧
      region wit.params ((wit.setReg .r6 0o2).sp - 2#16) 2 ≠ .absent ∧
      region wit.params ((wit.setReg .r6 0o2).sp - 4#16) 2 = .absent) := by decide

/-- An odd vector; one just above RAM; one whose second word is just above RAM. -/
theorem witness_DoubleFaultHalts_vector :
    isOdd 0o5#16 = true ∧ (isOdd 0o160000#16 = false ∧ region wit.params 0o160000 2 = .absent) ∧
    (isOdd 0o157776#16 = false ∧ region wit.params 0o157776 2 = .ram ∧ HoldsWord wit.busTurn 0o157776 0o177777 ∧
      region wit.params (0o157776#16 + 2#16) 2 = .absent) := by decide

/-- R241: SP at absent memory, at the first push and at the second. -/
theorem test_double_faults :
    [trapEntry 0o4 (wit.setReg .r6 0o160002), trapEntry 0o4 (wit.setReg .r6 0o2)].map (after · [0o0]) =
      [some (⟨0o2000, 0o2101, 0o3, 0o2000, 0o157776, 0o1100, 0o160000, 0o1002⟩, 0o5, .halted, [0o0]),
       some (⟨0o2000, 0o2101, 0o3, 0o2000, 0o157776, 0o1100, 0o177776, 0o1002⟩, 0o5, .halted, [0o5])] := by decide

/-- RTI: the two words on the stack; SP odd; SP just above RAM; SP at the last word of RAM. -/
theorem witness_RtiResult :
    (∃ s1 s2, readWord wit.sp wit = .ok 0o1234 s1 ∧ readWord (wit.sp + 2#16) s1 = .ok 0o31 s2) ∧
      isOdd (wit.setReg .r6 0o1401).sp = true ∧
      (isOdd (wit.setReg .r6 0o160000).sp = false ∧ region wit.params (wit.setReg .r6 0o160000).sp 2 = .absent) ∧
      (∃ s1, readWord (wit.setReg .r6 0o157776).sp (wit.setReg .r6 0o157776) = .ok 0o177777 s1) ∧
      region wit.params ((wit.setReg .r6 0o157776).sp + 2#16) 2 = .absent :=
  ⟨⟨_, _, rfl, rfl⟩, by decide, by decide, ⟨_, rfl⟩, by decide⟩

/-- `wit` with the supplement. -/
def witSupplement : State := witWith { Params.chosen with supplementPresent := true }

/-- As for RTI, with the supplement. -/
theorem witness_RttResult :
    witSupplement.params.supplementPresent = true ∧
      (∃ s1 s2, readWord witSupplement.sp witSupplement = .ok 0o1234 s1 ∧
        readWord (witSupplement.sp + 2#16) s1 = .ok 0o31 s2) ∧
      isOdd (witSupplement.setReg .r6 0o1401).sp = true ∧
      (isOdd (witSupplement.setReg .r6 0o160000).sp = false ∧
        region witSupplement.params (witSupplement.setReg .r6 0o160000).sp 2 = .absent) ∧
      (∃ s1, readWord (witSupplement.setReg .r6 0o157776).sp (witSupplement.setReg .r6 0o157776) = .ok 0o177777 s1) ∧
      region witSupplement.params ((witSupplement.setReg .r6 0o157776).sp + 2#16) 2 = .absent :=
  ⟨by decide, ⟨_, _, rfl, rfl⟩, by decide, by decide, ⟨_, rfl⟩, by decide⟩

theorem witness_TrapThenReturn :
    wit.Inv ∧ TrapReady wit 0o4 0o3000 0o340 ∧ (∀ k < 4, ¬ wit.DeviceStoresTo ((wit.sp - 4#16).toNat + k)) ∧
      ∃ t, trapEntry 0o4 wit = .next t :=
  ⟨by decide, witness_TrapReady_odd, wit_quiet, _, rfl⟩

/-- The parameter values in the clauses of ReservedWordsTrap and SoftwareTraps. -/
theorem witness_SupplementAndBptWord :
    wit.params.bptWord = .word4 ∧ (witWith { Params.chosen with bptWord := .word3 }).params.bptWord = .word3 ∧
      wit.params.supplementPresent = false ∧
      (witWith { Params.chosen with supplementPresent := true, bptWord := .word3 }).params.supplementPresent = true ∧
      (witWith { Params.chosen with supplementPresent := true, bptWord := .word3 }).Inv := by decide

/-- For the NOP clause: a NOP word at the PC. -/
def witNop (w : Word) : State := small ⟨0, 0, 0, 0, 0, 0, 0o1000, 0o1000⟩ 0o5 [(0o1000, w)]

theorem witness_ConditionCodeResults :
    ((witNop 0o240).Inv ∧ (witNop 0o240).run = .running ∧ isOdd (witNop 0o240).pc = false ∧
      region (witNop 0o240).params (witNop 0o240).pc 2 = .ram ∧ HoldsWord (witNop 0o240).busTurn (witNop 0o240).pc 0o240) ∧
    ((witNop 0o260).Inv ∧ (witNop 0o260).run = .running ∧ isOdd (witNop 0o260).pc = false ∧
      region (witNop 0o260).params (witNop 0o260).pc 2 = .ram ∧ HoldsWord (witNop 0o260).busTurn (witNop 0o260).pc 0o260) := by
  decide

theorem witness_IllegalJumpTraps : (⟨.deferred, .r6⟩ : Operand).mode ≠ .register := by decide

theorem witness_RequestChosen :
    chooseRequest { wit with params := withDevice, pending := [⟨0o60, 4⟩, ⟨0o64, 3⟩] } = some (⟨0o60, 4⟩, 0) := by decide

/-- `wit` with two requests of a device, at a priority and in a run state. -/
def witRequest (p : Word) (r : RunState) : State :=
  { wit with params := withDevice, ps := p, run := r, pending := [⟨0o20, 3⟩, ⟨0o60, 4⟩] }

/-- The request chosen of two, one level above the priority; after its entry the other is not above the new priority. -/
theorem witness_InterruptTaken_running :
    let s := witRequest 0o140 .running
    s.Inv ∧ (s.traceArmed = false ∧ s.powerFail = false ∧ s.haltRequest = false) ∧ s.run ≠ .halted ∧
      chooseRequest s = some (⟨0o60, 4⟩, 0) ∧ TrapReady s 0o60 0o3700 0o200 :=
  ⟨by decide, by decide, by decide, by decide, by decide⟩

/-- The same, waiting. -/
theorem witness_InterruptTaken_waiting :
    let s := witRequest 0o140 .waiting
    s.Inv ∧ (s.traceArmed = false ∧ s.powerFail = false ∧ s.haltRequest = false) ∧ s.run ≠ .halted ∧
      chooseRequest s = some (⟨0o60, 4⟩, 0) ∧ TrapReady s 0o60 0o3700 0o200 :=
  ⟨by decide, by decide, by decide, by decide, by decide⟩

/-- The same requests with the priority at the higher of their levels. -/
theorem witness_InterruptTaken_none :
    (witRequest 0o200 .waiting).Inv ∧ (witRequest 0o200 .waiting).run = .waiting ∧
      ∀ q ∈ (witRequest 0o200 .waiting).pending, q.level.val ≤ (witRequest 0o200 .waiting).priority := by decide

/-- By hand from R242 and R245: with the priority at 0 in the first handler's PS, the second request is
taken before the first handler's first instruction; with priority 4 it is not. -/
theorem test_requests_looked_at_again :
    (let s := witRequest 0o0 .waiting
     [step s, step { s with mem := s.mem.write 0o62 0o0 }].map (after · [])) =
      [some (⟨0o2000, 0o2101, 0o3, 0o2000, 0o157776, 0o1100, 0o1374, 0o3700⟩, 0o200, .running, []),
       some (⟨0o2000, 0o2101, 0o3, 0o2000, 0o157776, 0o1100, 0o1370, 0o3300⟩, 0o340, .running, [])] := by decide

/-- Every event present at once. -/
def witEvents : State := { witRequest 0o140 .waiting with traceArmed := true, powerFail := true, haltRequest := true }

/-- The events in their order, each with all those after it present as well. -/
theorem witness_BoundaryEventsTaken_order :
    witEvents.run ≠ .halted ∧ witEvents.traceArmed = true ∧
    ({ witEvents with traceArmed := false } : State).powerFail = true ∧
    ({ witEvents with traceArmed := false, powerFail := false } : State).haltRequest = true ∧
    chooseRequest { witEvents with traceArmed := false, powerFail := false, haltRequest := false } =
      some (⟨0o60, 4⟩, 0) := by decide

/-- The trace trap and a power-fail event, each alone. -/
theorem witness_BoundaryEventsTaken :
    (let s : State := { wit with traceArmed := true }
     s.Inv ∧ s.run ≠ .halted ∧ s.powerFail = false ∧ s.haltRequest = false ∧ s.pending = [] ∧
      TrapReady s s.params.vectors.trace 0o3200 0o341) ∧
    (let s : State := { wit with powerFail := true }
     s.Inv ∧ s.run ≠ .halted ∧ s.traceArmed = false ∧ s.haltRequest = false ∧ s.pending = [] ∧
      TrapReady s s.params.vectors.powerFail 0o3400 0o340) := by decide

/-- R242: trace, power fail and HALT present together are taken in that order: two entries, then the halt, the request
still pending. -/
theorem test_boundary_order :
    (let s : State := { witRequest 0o140 .running with traceArmed := true, powerFail := true, haltRequest := true }
     after (settle (.next s)) [0o1372, 0o1370]) =
      some (⟨0o2000, 0o2101, 0o3, 0o2000, 0o157776, 0o1100, 0o1370, 0o3400⟩, 0o340, .halted, [0o341, 0o3200]) := by decide

/-- For MulResult, DivResult and ArithmeticShiftResults. For MUL, ASH and ASHC: the count operand 0o3 is a
left shift, 0o177777 one to the right; for DIV a divisor that fits, zero, and an overflowing one. -/
theorem witness_EisOperands :
    wit.Inv ∧ wit.params.eisPresent = true ∧ oddPartner .r2 ≠ .r2 ∧ oddPartner .r3 = .r3 ∧
    (∃ s1, readOperandWord ⟨.register, .r2⟩ wit = .ok 0o3 s1 ∧ 0 ≤ ((0o3#16).extractLsb' 0 6).toInt) ∧
    (∃ s1, readOperandWord ⟨.deferred, .r4⟩ wit = .ok 0o177777 s1 ∧ ((0o177777#16).extractLsb' 0 6).toInt < 0) ∧
    (wit.setReg .r0 0o0).Inv ∧ (∃ s1, readOperandWord ⟨.register, .r0⟩ (wit.setReg .r0 0o0) = .ok 0o0 s1) ∧
    ((0o1#16 ++ 0o0#16).toInt.tdiv (0o1#16).toInt > 32767 ∧ (0o0#16 ++ 0o77777#16).toInt.tdiv (0o1#16).toInt = 32767 ∧
      (0o177777#16 ++ 0o100000#16).toInt.tdiv (0o1#16).toInt = -32768) :=
  ⟨by decide, by decide, by decide, by decide, ⟨_, rfl, by decide⟩, ⟨_, rfl, by decide⟩, by decide, ⟨_, rfl⟩,
    by decide⟩

theorem witness_RefusedWords : (witWith { Params.chosen with eisPresent := false }).params.eisPresent = false := by decide

end Sys2Proof.Tests
end

section
/-! The branches (R171 to R186): where their words stand in the decoder's map, and what their tests do. -/

namespace Sys2Proof.Machine

/-! ## The words of the branches -/

section
variable (page off8 : BitVec 8)

theorem toNat_page_append : (page ++ off8).toNat = 256 * page.toNat + off8.toNat := by
  rw [BitVec.toNat_append, ← Nat.shiftLeft_add_eq_or_of_lt off8.isLt, Nat.shiftLeft_eq]
  omega

/-- The encodings of R172 to R186, `base + off8`, with the base a page of 256 words. -/
theorem page_add_offset : (page ++ 0#8) + off8.setWidth 16 = page ++ off8 := by
  apply BitVec.eq_of_toNat_eq
  rw [BitVec.toNat_add, BitVec.toNat_setWidth, toNat_page_append, toNat_page_append, BitVec.toNat_zero]
  omega

theorem toNat_extract_top_append : ((page ++ off8).extractLsb' 12 4).toNat = page.toNat / 16 := by
  rw [BitVec.extractLsb'_append_eq_of_le (by decide), BitVec.extractLsb'_toNat, Nat.shiftRight_eq_div_pow]
  omega

theorem toNat_extract_group_append : ((page ++ off8).extractLsb' 9 3).toNat = page.toNat / 2 % 8 := by
  rw [BitVec.extractLsb'_append_eq_of_le (by decide), BitVec.extractLsb'_toNat, Nat.shiftRight_eq_div_pow]

@[simp] theorem extract_branchCode_append : (page ++ off8).extractLsb' 8 3 = page.extractLsb' 0 3 :=
  BitVec.extractLsb'_append_eq_of_le (by decide)

@[simp] theorem extract_offset_append : (page ++ off8).extractLsb' 0 8 = off8 := by
  rw [BitVec.extractLsb'_append_eq_of_add_le (by decide), BitVec.extractLsb'_eq_self]

end

/-- The pages 0 to 7 are the branch words with bit 15 = 0, and the low page (R63, R64 line 3). -/
theorem decodeWord_lowPages {page : BitVec 8} (h : page.toNat < 8) (off8 : BitVec 8) :
    decodeWord (page ++ off8) = decodeBranchLow (page ++ off8) := by
  have htop : ((page ++ off8).extractLsb' 12 4).toNat = 0 := by rw [toNat_extract_top_append]; omega
  have hgroup : ((page ++ off8).extractLsb' 9 3).toNat < 4 := by rw [toNat_extract_group_append]; omega
  have hword : decodeWord (page ++ off8) = decodeNonDoubleWord (page ++ off8) := by simp only [decodeWord, htop]
  rw [hword, decodeNonDoubleWord]
  split
  any_goals omega
  rfl

/-- The pages 0o200 to 0o207 are the branch words with bit 15 = 1 (R64 line 3). -/
theorem decodeWord_highPages {page : BitVec 8} (hle : 0o200 ≤ page.toNat) (hlt : page.toNat < 0o210) (off8 : BitVec 8) :
    decodeWord (page ++ off8) = decodeBranchHigh (page ++ off8) := by
  have htop : ((page ++ off8).extractLsb' 12 4).toNat = 8 := by rw [toNat_extract_top_append]; omega
  have hgroup : ((page ++ off8).extractLsb' 9 3).toNat < 4 := by rw [toNat_extract_group_append]; omega
  have hword : decodeWord (page ++ off8) = decodeNonDoubleByte (page ++ off8) := by simp only [decodeWord, htop]
  rw [hword, decodeNonDoubleByte]
  split
  any_goals omega
  rfl

/-- A word of a low page is its branch when the decoder's branch code picks that branch. -/
theorem decodeWord_lowBranch (page : BitVec 8) {i : Instr} {off8 : BitVec 8} (h : page.toNat < 8)
    (hi : decodeBranchLow (page ++ off8) = i) : decodeWord ((page ++ 0#8) + off8.setWidth 16) = i := by
  rw [page_add_offset, decodeWord_lowPages h, hi]

/-- A word of a high page is its branch when the decoder's branch code picks that branch. -/
theorem decodeWord_highBranch (page : BitVec 8) {i : Instr} {off8 : BitVec 8} (hle : 0o200 ≤ page.toNat)
    (hlt : page.toNat < 0o210) (hi : decodeBranchHigh (page ++ off8) = i) :
    decodeWord ((page ++ 0#8) + off8.setWidth 16) = i := by
  rw [page_add_offset, decodeWord_highPages hle hlt, hi]

theorem decodeWord_br (off8 : BitVec 8) : decodeWord (0o000400#16 + off8.setWidth 16) = .br off8 :=
  decodeWord_lowBranch 1#8 (by decide) (by simp [decodeBranchLow])

theorem decodeWord_bne (off8 : BitVec 8) : decodeWord (0o001000#16 + off8.setWidth 16) = .bne off8 :=
  decodeWord_lowBranch 2#8 (by decide) (by simp [decodeBranchLow])

theorem decodeWord_beq (off8 : BitVec 8) : decodeWord (0o001400#16 + off8.setWidth 16) = .beq off8 :=
  decodeWord_lowBranch 3#8 (by decide) (by simp [decodeBranchLow])

theorem decodeWord_bge (off8 : BitVec 8) : decodeWord (0o002000#16 + off8.setWidth 16) = .bge off8 :=
  decodeWord_lowBranch 4#8 (by decide) (by simp [decodeBranchLow])

theorem decodeWord_blt (off8 : BitVec 8) : decodeWord (0o002400#16 + off8.setWidth 16) = .blt off8 :=
  decodeWord_lowBranch 5#8 (by decide) (by simp [decodeBranchLow])

theorem decodeWord_bgt (off8 : BitVec 8) : decodeWord (0o003000#16 + off8.setWidth 16) = .bgt off8 :=
  decodeWord_lowBranch 6#8 (by decide) (by simp [decodeBranchLow])

theorem decodeWord_ble (off8 : BitVec 8) : decodeWord (0o003400#16 + off8.setWidth 16) = .ble off8 :=
  decodeWord_lowBranch 7#8 (by decide) (by simp [decodeBranchLow])

theorem decodeWord_bpl (off8 : BitVec 8) : decodeWord (0o100000#16 + off8.setWidth 16) = .bpl off8 :=
  decodeWord_highBranch 0o200#8 (by decide) (by decide) (by simp [decodeBranchHigh])

theorem decodeWord_bmi (off8 : BitVec 8) : decodeWord (0o100400#16 + off8.setWidth 16) = .bmi off8 :=
  decodeWord_highBranch 0o201#8 (by decide) (by decide) (by simp [decodeBranchHigh])

theorem decodeWord_bhi (off8 : BitVec 8) : decodeWord (0o101000#16 + off8.setWidth 16) = .bhi off8 :=
  decodeWord_highBranch 0o202#8 (by decide) (by decide) (by simp [decodeBranchHigh])

theorem decodeWord_blos (off8 : BitVec 8) : decodeWord (0o101400#16 + off8.setWidth 16) = .blos off8 :=
  decodeWord_highBranch 0o203#8 (by decide) (by decide) (by simp [decodeBranchHigh])

theorem decodeWord_bvc (off8 : BitVec 8) : decodeWord (0o102000#16 + off8.setWidth 16) = .bvc off8 :=
  decodeWord_highBranch 0o204#8 (by decide) (by decide) (by simp [decodeBranchHigh])

theorem decodeWord_bvs (off8 : BitVec 8) : decodeWord (0o102400#16 + off8.setWidth 16) = .bvs off8 :=
  decodeWord_highBranch 0o205#8 (by decide) (by decide) (by simp [decodeBranchHigh])

theorem decodeWord_bcc (off8 : BitVec 8) : decodeWord (0o103000#16 + off8.setWidth 16) = .bcc off8 :=
  decodeWord_highBranch 0o206#8 (by decide) (by decide) (by simp [decodeBranchHigh])

theorem decodeWord_bcs (off8 : BitVec 8) : decodeWord (0o103400#16 + off8.setWidth 16) = .bcs off8 :=
  decodeWord_highBranch 0o207#8 (by decide) (by decide) (by simp [decodeBranchHigh])

/-! ## The tests of the branches -/

/-- The test of a branch in the words of its rule: the PC written exactly when the test succeeds (R170, R171). -/
theorem branchIf_eq_ite {cond : Bool} {P : Prop} [Decidable P] (h : cond = true ↔ P) (off8 : BitVec 8) (s : State) :
    branchIf cond off8 s = .next (if P then s.setReg .r7 (s.pc + 2#16 * off8.signExtend 16) else s) := by
  simp only [branchIf, branchTarget, h]

/-- Settles O36: each word stands in its low page, and each test is the one of its rule. -/
theorem branchesWithBitClear : Obligations.BranchesWithBitClear := by
  intro s off8 taken
  exact ⟨decodeWord_br off8, rfl,
    decodeWord_bne off8, branchIf_eq_ite (by simp) off8 s,
    decodeWord_beq off8, branchIf_eq_ite (by simp) off8 s,
    decodeWord_bge off8, branchIf_eq_ite (by simp) off8 s,
    decodeWord_blt off8, branchIf_eq_ite (by simp) off8 s,
    decodeWord_bgt off8, branchIf_eq_ite (by simp) off8 s,
    decodeWord_ble off8, branchIf_eq_ite (by simp) off8 s⟩

/-- Settles O37: as O36 in the high pages; BHIS and BLO run the tests of BCC and BCS. -/
theorem branchesWithBitSet : Obligations.BranchesWithBitSet := by
  intro s off8 taken
  exact ⟨decodeWord_bpl off8, branchIf_eq_ite (by simp) off8 s,
    decodeWord_bmi off8, branchIf_eq_ite (by simp) off8 s,
    decodeWord_bhi off8, branchIf_eq_ite (by simp) off8 s,
    decodeWord_blos off8, branchIf_eq_ite (by simp) off8 s,
    decodeWord_bvc off8, branchIf_eq_ite (by simp) off8 s,
    decodeWord_bvs off8, branchIf_eq_ite (by simp) off8 s,
    decodeWord_bcc off8, branchIf_eq_ite (by simp) off8 s,
    branchIf_eq_ite (by simp) off8 s,
    decodeWord_bcs off8, branchIf_eq_ite (by simp) off8 s,
    branchIf_eq_ite (by simp) off8 s⟩

end Sys2Proof.Machine
end

section
/-! The condition-code operations (R191 to R194): the flags each one leaves, and that nothing else of the state
changes. -/

namespace Sys2Proof.Machine

/-! ## Writing the flags -/

/-- The condition codes as they stand are the low four bits of the PS (R16). -/
theorem State.flags_bits (s : State) : s.flags.bits = s.ps &&& 0o17#16 := by
  have of_nibble : ∀ x : BitVec 4,
      Flags.bits ⟨x.getLsbD 3, x.getLsbD 2, x.getLsbD 1, x.getLsbD 0⟩ = x.setWidth 16 := by decide
  have low_nibble : (s.ps.setWidth 4).setWidth 16 = s.ps &&& 0o17#16 := by
    apply BitVec.eq_of_toNat_eq
    simp [Nat.and_two_pow_sub_one_eq_mod s.ps.toNat 4]
    omega
  rw [← low_nibble, ← of_nibble]
  simp [State.flags, State.flagN, State.flagZ, State.flagV, State.flagC]

/-- Writing the flags as they stand changes nothing, when no PS bit outside the mask is set (R16). -/
theorem State.setFlags_flags {s : State} (h : s.ps &&& ~~~s.params.psMask = 0#16) : s.setFlags s.flags = s := by
  have hps : (s.ps &&& 0o177760#16) ||| s.flags.bits = s.ps := by
    rw [State.flags_bits, ← BitVec.and_or_distrib_left]
    exact BitVec.and_allOnes
  rw [State.setFlags, hps, State.writePs, masked_of_clear h]

/-- The instruction leaves the flags `f`, and all else as it was: the rest of the PS, the registers, memory and the
control state. -/
abbrev ChangesOnlyFlags (i : Instr) (s : State) (f : Flags) : Prop :=
  ∃ t, exec i s = .next t ∧ t.flags = f ∧ SamePsButFlags s t ∧ t.regs = s.regs ∧ t.mem = s.mem ∧ SameControl s t

theorem changesOnlyFlags_of_exec {i : Instr} {s : State} {f : Flags} (hi : s.Inv)
    (he : exec i s = .next (s.setFlags f)) : ChangesOnlyFlags i s f := by
  obtain ⟨hparams, -, -, hmasked, -⟩ := hi
  exact ⟨s.setFlags f, he, State.flags_setFlags s f (Params.wf_mask hparams), State.setFlags_rest s f hmasked, rfl, rfl,
    List.suffix_refl _, rfl, rfl, rfl, rfl, rfl, rfl, rfl⟩

/-! ## The operations and their words -/

/-- The words 0o240 to 0o257 are CLx, the mask in the low four bits (R191). -/
theorem decodeWord_clx : ∀ m : BitVec 4, decodeWord (0o000240#16 + m.setWidth 16) = .clx m := by decide

/-- The words 0o260 to 0o277 are SEx, the mask in the low four bits (R192). -/
theorem decodeWord_sex : ∀ m : BitVec 4, decodeWord (0o000260#16 + m.setWidth 16) = .sex m := by decide

theorem clx_changesOnlyFlags {s : State} (hi : s.Inv) (m : BitVec 4) :
    ChangesOnlyFlags (.clx m) s ⟨s.flagN && !m.getLsbD 3, s.flagZ && !m.getLsbD 2, s.flagV && !m.getLsbD 1,
      s.flagC && !m.getLsbD 0⟩ :=
  changesOnlyFlags_of_exec hi rfl

theorem sex_changesOnlyFlags {s : State} (hi : s.Inv) (m : BitVec 4) :
    ChangesOnlyFlags (.sex m) s ⟨s.flagN || m.getLsbD 3, s.flagZ || m.getLsbD 2, s.flagV || m.getLsbD 1,
      s.flagC || m.getLsbD 0⟩ :=
  changesOnlyFlags_of_exec hi rfl

/-- CLx with no flag selected changes nothing (R194). -/
theorem exec_clx_none {s : State} (h : s.ps &&& ~~~s.params.psMask = 0#16) : exec (.clx 0#4) s = .next s := by
  have hf : clearFlags 0#4 s = s.setFlags s.flags := by simp [clearFlags, State.flags]
  rw [show exec (.clx 0#4) s = .next (clearFlags 0#4 s) from rfl, hf, State.setFlags_flags h]

/-- SEx with no flag selected changes nothing (R194). -/
theorem exec_sex_none {s : State} (h : s.ps &&& ~~~s.params.psMask = 0#16) : exec (.sex 0#4) s = .next s := by
  have hf : raiseFlags 0#4 s = s.setFlags s.flags := by simp [raiseFlags, State.flags]
  rw [show exec (.sex 0#4) s = .next (raiseFlags 0#4 s) from rfl, hf, State.setFlags_flags h]

/-! ## The named words -/

/-- `i` names the word `w` of the operation `j`: it means what `j` means, and leaves the flags `f` (R193). -/
abbrev NamesOperation (s : State) (i j : Instr) (w : Word) (f : Flags) : Prop :=
  encodeWord i = w ∧ decodeWord w = j ∧ exec i s = exec j s ∧ ChangesOnlyFlags i s f

/-- An instruction with the word and the meaning of an operation leaves the flags that the operation leaves. -/
theorem ChangesOnlyFlags.names {s : State} {i j : Instr} {w : Word} {f g : Flags} (hj : ChangesOnlyFlags j s g)
    (hw : encodeWord i = w) (hd : decodeWord w = j) (he : exec i s = exec j s) (hg : g = f) :
    NamesOperation s i j w f :=
  ⟨hw, hd, he, by rw [ChangesOnlyFlags, he, ← hg]; exact hj⟩

/-! ## A step at a word in RAM -/

/-- A turn of the devices does not look at `trace_armed` (R44). -/
theorem State.busTurn_withTraceArmed (s : State) (b : Bool) :
    ({ s with traceArmed := b } : State).busTurn = { s.busTurn with traceArmed := b } := by
  rw [State.busTurn_congr (s := s) (t := { s with traceArmed := b }) rfl rfl rfl, State.busTurn_eq s]

/-- The state in which the instruction fetched at the PC is executed: devices have taken their turn, `trace_armed` is
the T bit, and the PC has moved past the word (R13, R44, R243). -/
abbrev State.fetched (s : State) : State :=
  { s.busTurn with traceArmed := s.flagT }.setReg .r7 (s.pc + 2#16)

/-- A step at a word that RAM holds is the instruction of that word, and the boundary after it (R13, R242). -/
theorem step_of_holdsWord {s : State} {w : Word} (hr : s.run = .running) (he : isOdd s.pc = false)
    (hram : region s.params s.pc 2 = .ram) (hw : HoldsWord s.busTurn s.pc w) :
    step s = settle (exec (decodeWord w) s.fetched) := by
  have hread : readWord s.pc { s with traceArmed := s.flagT } = .ok w { s.busTurn with traceArmed := s.flagT } := by
    rw [← State.busTurn_withTraceArmed]
    exact readWord_ram he hram (by rw [State.busTurn_withTraceArmed]; exact hw)
  have hfetch : fetchInstr s = .ok (decodeWord w) s.fetched := by
    rw [fetchInstr, fetch_of_read hread, Res.bind_ok]
    rfl
  rw [step_of_running hr, hfetch]

/-- Settles O39: CLx and SEx write the flags alone; the named words go back to them at one mask each; a NOP's step is
its fetch, because writing the flags as they stand changes nothing. -/
theorem conditionCodeResults : Obligations.ConditionCodeResults := by
  intro s hi
  have ⟨_, _, _, hmasked, _⟩ := hi
  have hfetched : s.fetched.ps &&& ~~~s.fetched.params.psMask = 0#16 := by simpa using hmasked
  refine ⟨fun m => ⟨decodeWord_clx m, clx_changesOnlyFlags hi m⟩,
    fun m => ⟨decodeWord_sex m, sex_changesOnlyFlags hi m⟩,
    ?named, exec_clx_none hmasked, exec_sex_none hmasked, ?nopStep⟩
  case named =>
    simp only [List.forall_mem_cons]
    exact ⟨(clx_changesOnlyFlags hi 0b0000#4).names rfl rfl rfl (by simp [State.flags]),
      (clx_changesOnlyFlags hi 0b0001#4).names rfl rfl rfl (by simp),
      (clx_changesOnlyFlags hi 0b0010#4).names rfl rfl rfl (by simp),
      (clx_changesOnlyFlags hi 0b0100#4).names rfl rfl rfl (by simp),
      (clx_changesOnlyFlags hi 0b1000#4).names rfl rfl rfl (by simp),
      (clx_changesOnlyFlags hi 0b1111#4).names rfl rfl rfl (by simp),
      (sex_changesOnlyFlags hi 0b0000#4).names rfl rfl rfl (by simp [State.flags]),
      (sex_changesOnlyFlags hi 0b0001#4).names rfl rfl rfl (by simp),
      (sex_changesOnlyFlags hi 0b0010#4).names rfl rfl rfl (by simp),
      (sex_changesOnlyFlags hi 0b0100#4).names rfl rfl rfl (by simp),
      (sex_changesOnlyFlags hi 0b1000#4).names rfl rfl rfl (by simp),
      (sex_changesOnlyFlags hi 0b1111#4).names rfl rfl rfl (by simp),
      by simp⟩
  case nopStep =>
    intro w hnop hr he hram hw
    rw [step_of_holdsWord hr he hram hw]
    obtain rfl | rfl : w = 0o240#16 ∨ w = 0o260#16 := by simpa using hnop
    · rw [show decodeWord 0o240#16 = .clx 0#4 from decodeWord_clx 0#4, exec_clx_none hfetched]
    · rw [show decodeWord 0o260#16 = .sex 0#4 from decodeWord_sex 0#4, exec_sex_none hfetched]

end Sys2Proof.Machine
end

section
/-! The decoder and the encoder are each other's inverse (R56, R64). -/

namespace Sys2Proof

open Machine

/-! ## Fields -/

@[simp] theorem Reg.ofBits_bits (r : Reg) : Reg.ofBits r.bits = r := by cases r <;> rfl

@[simp] theorem Reg.bits_ofBits : ∀ b : BitVec 3, (Reg.ofBits b).bits = b := by decide

@[simp] theorem Mode.ofBits_bits (m : Mode) : Mode.ofBits m.bits = m := by cases m <;> rfl

@[simp] theorem Mode.bits_ofBits : ∀ b : BitVec 3, (Mode.ofBits b).bits = b := by decide

/-- The field of a word that lies in the upper of two parts joined. -/
theorem extract_upper (m n : Nat) {i k : Nat} (h : n ≤ i) (x : BitVec m) (y : BitVec n) :
    (x ++ y).extractLsb' i k = x.extractLsb' (i - n) k := BitVec.extractLsb'_append_eq_of_le h

/-- The field of a word that lies in the lower of two parts joined. -/
theorem extract_lower (m n : Nat) {i k : Nat} (h : i + k ≤ n) (x : BitVec m) (y : BitVec n) :
    (x ++ y).extractLsb' i k = y.extractLsb' i k := BitVec.extractLsb'_append_eq_of_add_le h

theorem toNat_append_add {m n : Nat} (x : BitVec m) (y : BitVec n) : (x ++ y).toNat = x.toNat * 2 ^ n + y.toNat := by
  rw [BitVec.toNat_append, ← Nat.shiftLeft_add_eq_or_of_lt y.isLt, Nat.shiftLeft_eq]

theorem toNat_extract_div {n : Nat} (x : BitVec n) (i k : Nat) :
    (x.extractLsb' i k).toNat = x.toNat / 2 ^ i % 2 ^ k := by
  rw [BitVec.extractLsb'_toNat, Nat.shiftRight_eq_div_pow]

@[simp] theorem Operand.ofBits_bits (o : Operand) : Operand.ofBits o.bits = o := by
  simp [Operand.ofBits, Operand.bits, extract_upper 3 3, extract_lower 3 3]

@[simp] theorem Operand.bits_ofBits (b : BitVec 6) : (Operand.ofBits b).bits = b := by
  apply BitVec.eq_of_toNat_eq
  simp only [Operand.bits, Operand.ofBits, Mode.bits_ofBits, Reg.bits_ofBits, toNat_append_add, toNat_extract_div]
  omega

/-! ## Every word is that of the instruction it decodes to -/

/-- `i` is a well-formed instruction and `w` its word. -/
def HasWord (w : Word) (i : Instr) : Prop := i.wellFormed = true ∧ encodeWord i = w

theorem HasWord.of_core {w : Word} {i : Instr} (hc : i.core = i) (hn : (encodeWord i).toNat = w.toNat) :
    HasWord w i :=
  ⟨decide_eq_true hc, BitVec.eq_of_toNat_eq hn⟩

@[simp] theorem dstField_bits (w : Word) : (dstField w).bits = w.extractLsb' 0 6 := Operand.bits_ofBits _

@[simp] theorem srcField_bits (w : Word) : (srcField w).bits = w.extractLsb' 6 6 := Operand.bits_ofBits _

@[simp] theorem regField_bits (w : Word) : (regField w).bits = w.extractLsb' 6 3 := Reg.bits_ofBits _

@[simp] theorem lowRegField_bits (w : Word) : (lowRegField w).bits = w.extractLsb' 0 3 := Reg.bits_ofBits _

/-! One lemma for each function of the decoder: the field it looks at splits the words it is given, and each row keeps
every bit of its words. Goal `k + 1` is the row `k` of the field; the rows that another function decodes are settled
first, from the last down, so that the numbers of the others stand. -/

theorem decodeSingleWord_hasWord {w : Word} (h : w.toNat / 512 = 5 ∨ w.toNat / 512 = 6) :
    HasWord w (decodeSingleWord w) := by
  unfold decodeSingleWord
  rw [toNat_extract_div]
  generalize hc : w.toNat / 2 ^ 6 % 2 ^ 4 = c
  have hlt : c < 16 := by omega
  interval_cases c <;> refine .of_core rfl ?_ <;>
    simp only [encodeWord, dstField_bits, toNat_append_add, toNat_extract_div, BitVec.toNat_ofNat] <;>
    omega

theorem decodeSingleByte_hasWord {w : Word} (h : w.toNat / 512 = 0o105 ∨ w.toNat / 512 = 0o106) :
    HasWord w (decodeSingleByte w) := by
  unfold decodeSingleByte
  rw [toNat_extract_div]
  generalize hc : w.toNat / 2 ^ 6 % 2 ^ 4 = c
  have hlt : c < 16 := by omega
  interval_cases c <;> refine .of_core rfl ?_ <;>
    simp only [encodeWord, dstField_bits, toNat_append_add, toNat_extract_div, BitVec.toNat_ofNat] <;>
    omega

theorem decodeReturnOrCodes_hasWord {w : Word} (h : w.toNat / 64 = 2) : HasWord w (decodeReturnOrCodes w) := by
  unfold decodeReturnOrCodes
  rw [toNat_extract_div]
  generalize hc : w.toNat / 2 ^ 3 % 2 ^ 3 = c
  have hlt : c < 8 := by omega
  interval_cases c <;> refine .of_core rfl ?_ <;>
    simp only [encodeWord, lowRegField_bits, toNat_append_add, toNat_extract_div, BitVec.toNat_ofNat] <;>
    omega

theorem decodeBranchHigh_hasWord {w : Word} (h : w.toNat / 2048 = 0o20) : HasWord w (decodeBranchHigh w) := by
  unfold decodeBranchHigh
  rw [toNat_extract_div]
  generalize hc : w.toNat / 2 ^ 8 % 2 ^ 3 = c
  have hlt : c < 8 := by omega
  interval_cases c <;> refine .of_core rfl ?_ <;>
    simp only [encodeWord, toNat_append_add, toNat_extract_div, BitVec.toNat_ofNat] <;>
    omega

theorem decodeOperate_hasWord {w : Word} (h : w.toNat / 64 = 0) : HasWord w (decodeOperate w) := by
  unfold decodeOperate
  rw [toNat_extract_div, toNat_extract_div]
  generalize hc : w.toNat / 2 ^ 3 % 2 ^ 3 = c
  generalize hd : w.toNat / 2 ^ 0 % 2 ^ 3 = d
  have hlt : c < 8 := by omega
  have hld : d < 8 := by omega
  interval_cases c
  on_goal 1 =>
    interval_cases d <;> refine .of_core rfl ?_ <;> simp only [encodeWord, BitVec.toNat_ofNat] <;> omega
  all_goals
    refine .of_core rfl ?_
    simp only [encodeWord, toNat_append_add, toNat_extract_div, BitVec.toNat_ofNat]
    omega

theorem decodeEisFive_hasWord {w : Word} (h : w.toNat / 512 = 0o75) : HasWord w (decodeEisFive w) := by
  unfold decodeEisFive
  rw [toNat_extract_div, toNat_extract_div]
  generalize hc : w.toNat / 2 ^ 5 % 2 ^ 4 = c
  generalize hd : w.toNat / 2 ^ 3 % 2 ^ 2 = d
  have hlt : c < 16 := by omega
  have hld : d < 4 := by omega
  interval_cases c
  on_goal 1 =>
    interval_cases d <;> refine .of_core rfl ?_ <;>
      simp only [encodeWord, lowRegField_bits, toNat_append_add, toNat_extract_div, BitVec.toNat_ofNat] <;>
      omega
  all_goals
    refine .of_core rfl ?_
    simp only [encodeWord, toNat_append_add, toNat_extract_div, BitVec.toNat_ofNat]
    omega

theorem decodeLowPage_hasWord {w : Word} (h : w.toNat / 256 = 0) : HasWord w (decodeLowPage w) := by
  unfold decodeLowPage
  rw [toNat_extract_div]
  generalize hc : w.toNat / 2 ^ 6 % 2 ^ 2 = c
  have hlt : c < 4 := by omega
  interval_cases c
  on_goal 3 => exact decodeReturnOrCodes_hasWord (by omega)
  on_goal 1 => exact decodeOperate_hasWord (by omega)
  all_goals
    refine .of_core rfl ?_
    simp only [encodeWord, dstField_bits, toNat_append_add, toNat_extract_div, BitVec.toNat_ofNat]
    omega

theorem decodeBranchLow_hasWord {w : Word} (h : w.toNat / 2048 = 0) : HasWord w (decodeBranchLow w) := by
  unfold decodeBranchLow
  rw [toNat_extract_div]
  generalize hc : w.toNat / 2 ^ 8 % 2 ^ 3 = c
  have hlt : c < 8 := by omega
  interval_cases c
  on_goal 1 => exact decodeLowPage_hasWord (by omega)
  all_goals
    refine .of_core rfl ?_
    simp only [encodeWord, toNat_append_add, toNat_extract_div, BitVec.toNat_ofNat]
    omega

theorem decodeNonDoubleWord_hasWord {w : Word} (h : w.toNat / 4096 = 0) : HasWord w (decodeNonDoubleWord w) := by
  unfold decodeNonDoubleWord
  rw [toNat_extract_div]
  generalize hc : w.toNat / 2 ^ 9 % 2 ^ 3 = c
  have hlt : c < 8 := by omega
  interval_cases c
  on_goal 7 => exact decodeSingleWord_hasWord (by omega)
  on_goal 6 => exact decodeSingleWord_hasWord (by omega)
  on_goal 4 => exact decodeBranchLow_hasWord (by omega)
  on_goal 3 => exact decodeBranchLow_hasWord (by omega)
  on_goal 2 => exact decodeBranchLow_hasWord (by omega)
  on_goal 1 => exact decodeBranchLow_hasWord (by omega)
  all_goals
    refine .of_core rfl ?_
    simp only [encodeWord, regField_bits, dstField_bits, toNat_append_add, toNat_extract_div, BitVec.toNat_ofNat]
    omega

theorem decodeNonDoubleByte_hasWord {w : Word} (h : w.toNat / 4096 = 8) : HasWord w (decodeNonDoubleByte w) := by
  unfold decodeNonDoubleByte
  rw [toNat_extract_div]
  generalize hc : w.toNat / 2 ^ 9 % 2 ^ 3 = c
  have hlt : c < 8 := by omega
  interval_cases c
  on_goal 7 => exact decodeSingleByte_hasWord (by omega)
  on_goal 6 => exact decodeSingleByte_hasWord (by omega)
  on_goal 5 =>
    have hbit : w.getLsbD 8 = decide (w.toNat / 2 ^ 8 % 2 = 1) := Nat.testBit_eq_decide_div_mod_eq
    show HasWord w (if w.getLsbD 8 then .unlisted1044xx _ else .unlisted1040xx _)
    rw [hbit]
    split <;> refine .of_core rfl ?_ <;>
      simp only [encodeWord, toNat_append_add, toNat_extract_div, BitVec.toNat_ofNat, decide_eq_true_eq] at * <;>
      omega
  on_goal 4 => exact decodeBranchHigh_hasWord (by omega)
  on_goal 3 => exact decodeBranchHigh_hasWord (by omega)
  on_goal 2 => exact decodeBranchHigh_hasWord (by omega)
  on_goal 1 => exact decodeBranchHigh_hasWord (by omega)
  all_goals
    refine .of_core rfl ?_
    simp only [encodeWord, toNat_append_add, toNat_extract_div, BitVec.toNat_ofNat]
    omega

theorem decodeEis_hasWord {w : Word} (h : w.toNat / 4096 = 7) : HasWord w (decodeEis w) := by
  unfold decodeEis
  rw [toNat_extract_div]
  generalize hc : w.toNat / 2 ^ 9 % 2 ^ 3 = c
  have hlt : c < 8 := by omega
  interval_cases c
  on_goal 6 => exact decodeEisFive_hasWord (by omega)
  all_goals
    refine .of_core rfl ?_
    simp only [encodeWord, regField_bits, dstField_bits, toNat_append_add, toNat_extract_div, BitVec.toNat_ofNat]
    omega

theorem decodeWord_hasWord (w : Word) : HasWord w (decodeWord w) := by
  unfold decodeWord
  rw [toNat_extract_div]
  generalize hc : w.toNat / 2 ^ 12 % 2 ^ 4 = c
  have hlt : c < 16 := by omega
  interval_cases c
  on_goal 9 => exact decodeNonDoubleByte_hasWord (by omega)
  on_goal 8 => exact decodeEis_hasWord (by omega)
  on_goal 1 => exact decodeNonDoubleWord_hasWord (by omega)
  all_goals
    refine .of_core rfl ?_
    simp only [encodeWord, srcField_bits, dstField_bits, toNat_append_add, toNat_extract_div, BitVec.toNat_ofNat]
    omega

/-! ## Decoding the word of an instruction -/

/-- The words 0o075400 to 0o075777 are one row (R120). -/
theorem decodeEisFive_upper {w : Word} (h : 8 ≤ (w.extractLsb' 5 4).toNat) :
    decodeEisFive w = .unused075400 (w.extractLsb' 0 8) := by
  unfold decodeEisFive
  split
  any_goals omega
  rfl

/-- By the formats of R51 to R55: the decoder's fields of an encoded word are the parts it was joined from. -/
theorem decodeWord_encodeWord (i : Instr) : decodeWord (encodeWord i) = i.core := by
  cases i with
  | halt | wait | rti | unlisted000003 | bpt | reset | unlisted000006 | unused000007 | nop240 | clc | clv | clz | cln
  | ccc | nop260 | sec | sev | sez | sen | scc => rfl
  | unused000010 x | rts x | unused000210 x | unused000220 x | unlisted00023x x =>
    simp [encodeWord, Instr.core, decodeWord, decodeNonDoubleWord, decodeBranchLow, decodeLowPage, decodeOperate,
      decodeReturnOrCodes, lowRegField, extract_upper 13 3, extract_lower 13 3]
  | fadd x | fsub x | fmul x | fdiv x =>
    simp [encodeWord, Instr.core, decodeWord, decodeEis, decodeEisFive, lowRegField, extract_upper 13 3,
      extract_lower 13 3]
  | clx x | sex x | unused000020 x | unused000040 x | unused075040 x | unused075100 x | unused075200 x =>
    revert x; decide
  | unused075400 x =>
    have htop : 8 ≤ ((0o173#8 ++ x).extractLsb' 5 4).toNat := by
      rw [toNat_extract_div, toNat_append_add, BitVec.toNat_ofNat]; omega
    simp [encodeWord, Instr.core, decodeWord, decodeEis, decodeEisFive_upper htop, extract_upper 8 8,
      extract_lower 8 8]
  | jmp x | swab x =>
    simp [encodeWord, Instr.core, decodeWord, decodeNonDoubleWord, decodeBranchLow, decodeLowPage, dstField,
      extract_upper 10 6, extract_lower 10 6]
  | clr x | com x | inc x | dec x | neg x | adc x | sbc x | tst x | ror x | rol x | asr x | asl x | mark x
  | unused006500 x | unused006600 x | sxt x =>
    simp [encodeWord, Instr.core, decodeWord, decodeNonDoubleWord, decodeSingleWord, dstField, extract_upper 10 6,
      extract_lower 10 6]
  | clrb x | comb x | incb x | decb x | negb x | adcb x | sbcb x | tstb x | rorb x | rolb x | asrb x | aslb x
  | mtps x | unused106500 x | unused106600 x | mfps x =>
    simp [encodeWord, Instr.core, decodeWord, decodeNonDoubleByte, decodeSingleByte, dstField, extract_upper 10 6,
      extract_lower 10 6]
  | jsr r x =>
    simp [encodeWord, Instr.core, decodeWord, decodeNonDoubleWord, dstField, regField, extract_upper 10 6,
      extract_lower 10 6, extract_upper 7 3, extract_lower 7 3]
  | mul r x | div r x | ash r x | ashc r x | xor r x | sob r x =>
    simp [encodeWord, Instr.core, decodeWord, decodeEis, dstField, regField, extract_upper 10 6, extract_lower 10 6,
      extract_upper 7 3, extract_lower 7 3]
  | br x | bne x | beq x | bge x | blt x | bgt x | ble x =>
    simp only [encodeWord]
    rw [decodeWord_lowPages (by decide)]
    simp [Instr.core, decodeBranchLow]
  | bpl x | bmi x | bhi x | blos x | bvc x | bvs x | bcc x | bcs x | bhis x | blo x =>
    simp only [encodeWord]
    rw [decodeWord_highPages (by decide) (by decide)]
    simp [Instr.core, decodeBranchHigh]
  | unlisted1040xx x =>
    have hbit : (0o210#8 ++ x)[8] = false := by rw [BitVec.getElem_append]; rfl
    simp [encodeWord, Instr.core, decodeWord, decodeNonDoubleByte, extract_upper 8 8, hbit]
  | unlisted1044xx x =>
    have hbit : (0o211#8 ++ x)[8] = true := by rw [BitVec.getElem_append]; rfl
    simp [encodeWord, Instr.core, decodeWord, decodeNonDoubleByte, extract_upper 8 8, hbit]
  | unused007000 x | unused107000 x | unused076000 x =>
    simp [encodeWord, Instr.core, decodeWord, decodeNonDoubleWord, decodeNonDoubleByte, decodeEis, extract_upper 7 9,
      extract_lower 7 9]
  | mov x y | cmp x y | bit x y | bic x y | bis x y | add x y | sub x y | movb x y | cmpb x y | bitb x y | bicb x y
  | bisb x y =>
    simp [encodeWord, Instr.core, decodeWord, dstField, srcField, extract_upper 10 6, extract_lower 10 6,
      extract_upper 4 6, extract_lower 4 6]
  | space1111 x =>
    simp [encodeWord, Instr.core, decodeWord, extract_upper 4 12, extract_lower 4 12]

/-- Settles O1: the fields of an encoded word are those of its instruction, and bytes joined again are the word. -/
theorem decodeEncodeRoundTrip : Obligations.DecodeEncodeRoundTrip := by
  intro i
  refine ⟨decodeWord_encodeWord i, fun rest hwf => ?_⟩
  have hcore : i.core = i := of_decide_eq_true hwf
  simp [encode, wordBytes, decode, decodeWord_encodeWord, hcore]

/-- Settles O2: the decoder's case split by fields covers every word, and each case keeps every bit. -/
theorem encodeDecodeEveryWord : Obligations.EncodeDecodeEveryWord := decodeWord_hasWord

/-- Settles O3: each word is evaluated. -/
theorem sampleWordsDecode : Obligations.SampleWordsDecode := by
  refine ⟨?_, ?_, ?_, ?_, ?_, ?_, ?_, ?_, ?_, ?_⟩ <;> decide

end Sys2Proof
end

section
/-! What every instruction keeps, and what follows for the steps of the machine: the parameters, the invariant, and the
control bits of the PS (R5, R16, R19 to R21, R241). -/

namespace Sys2Proof.Machine

/-! ## Every instruction is made of parts -/

/-- A property kept by every update an instruction makes but the writes of the whole PS. -/
structure ClosedControl (P : State → Prop) : Prop extends Closed P where
  run : ∀ s r, P s → P { s with run := r }
  requests : ∀ s rs, List.Sublist rs s.pending → P s → P { s with pending := rs }

/-- A property kept by the writes of the whole PS, and by what RTI and RTT do to `trace_armed`. -/
structure PsClosed (P : State → Prop) : Prop where
  writePs : ∀ s v, P s → P (s.writePs v)
  traceArmed : ∀ s b, P s → P { s with traceArmed := b }

/-- MTPS, RTI and RTT write the whole PS (R16). -/
def writesPs (i : Instr) : Bool :=
  match i with
  | .mtps _ => true
  | .rti => true
  | .unlisted000006 => true
  | _ => false

theorem of_writesPs {i : Instr} (h : writesPs i = true) : (∃ o, i = .mtps o) ∨ i = .rti ∨ i = .unlisted000006 := by
  unfold writesPs at h
  split at h <;> simp_all

/-- An instruction is one part, which ends it or raises its exception: what the part keeps, and where it raises. -/
structure Performs (i : Instr) (s : State) (x : Res Unit) : Prop where
  exec : exec i s = finish x
  raises : ∀ {P : State → Prop}, Passing P → P s → x.Raises P
  holds : ∀ {P : State → Prop}, ClosedControl P → (writesPs i = true → PsClosed P) → P s → x.Holds P

theorem Performs.of_raise {i : Instr} {s : State} (e : Exn) (h : Machine.exec i s = raise e s) :
    Performs i s (.exn e s) := ⟨h, fun _ hs => hs, fun _ _ hs => hs⟩

theorem Performs.of_refused {i : Instr} {s : State} {r : Refusal} (h : Machine.exec i s = .refused r) :
    Performs i s (.refused r) := ⟨h, fun _ _ => trivial, fun _ _ _ => trivial⟩

theorem Performs.of_next {i : Instr} {s t : State} (h : Machine.exec i s = .next t)
    (hk : ∀ {P : State → Prop}, ClosedControl P → P s → P t) : Performs i s (.ok () t) :=
  ⟨h, fun _ _ => trivial, fun hP _ hs => hk hP hs⟩

theorem Performs.branch {i : Instr} {s : State} {c : Bool} {off8 : BitVec 8}
    (h : Machine.exec i s = branchIf c off8 s) :
    Performs i s (.ok () (if c then s.setReg .r7 (branchTarget s.pc off8) else s)) :=
  .of_next h fun hP hs => by split; exacts [hP.setReg hs _ _, hs]

theorem Passing.trapReturn_raises {P : State → Prop} (hP : Passing P) {s : State} (h : P s) :
    (trapReturn s).Raises P :=
  (hP.pop h).bind_raises fun _ _ h1 => (hP.pop (hP.setReg h1 _ _)).raises.bind_ok

theorem requireEis_holds {P : State → Prop} {α : Type} {m : String} {s : State} {x : Res α} (h : x.Holds P) :
    (requireEis m s x).Holds P := by
  unfold requireEis; split
  · exact h
  · trivial

theorem requireEis_raises {P : State → Prop} {α : Type} {m : String} {s : State} {x : Res α} (h : x.Raises P) :
    (requireEis m s x).Raises P := by
  unfold requireEis; split
  · exact h
  · trivial

/-- A register pair and the flags written keep what every update keeps. -/
theorem Closed.setPair {P : State → Prop} (hP : Closed P) {s : State} (h : P s) (r : Reg) (v : BitVec 32) :
    P (s.setPair r v) := hP.setReg (hP.setReg h _ _) _ _

theorem Closed.divideInto {P : State → Prop} (hP : Closed P) {s : State} (h : P s) (r : Reg) (v : Word) :
    P (divideInto r v s) := by
  have undefined (c : Bool) : P (s.divideUndefined r c) :=
    hP.draws _ _ (hP.setFlags (hP.setReg (hP.setReg h _ _) _ _) _)
  unfold Machine.divideInto
  split
  · exact undefined true
  · dsimp only
    split
    · exact undefined false
    · exact hP.setFlags (hP.setReg (hP.setReg h _ _) _ _) _

theorem exists_performs (i : Instr) (s : State) : ∃ x, Performs i s x := by
  cases i with
  | halt => exact ⟨_, .of_next rfl fun hP hs => hP.run _ _ hs⟩
  | wait => exact ⟨_, .of_next rfl fun hP hs => hP.run _ _ hs⟩
  | reset => exact ⟨_, .of_next rfl fun hP hs => hP.requests _ _ (List.nil_sublist _) hs⟩
  | unused000007 | unused000010 | unused000020 | unused000040 | unused000210 | unused000220 | unlisted00023x
  | unused006500 | unused006600 | unused007000 | unused075040 | unused075100 | unused075200 | unused075400
  | unused076000 | unused106500 | unused106600 | unused107000 => exact ⟨_, .of_raise .reservedInstruction rfl⟩
  | fadd | fsub | fmul | fdiv | space1111 => exact ⟨_, .of_refused rfl⟩
  | clx | sex | nop240 | clc | clv | clz | cln | ccc | nop260 | sec | sev | sez | sen | scc =>
    exact ⟨_, .of_next rfl fun hP hs => hP.setFlags hs _⟩
  | br | bne | beq | bge | blt | bgt | ble | bpl | bmi | bhi | blos | bvc | bvs | bcc | bcs | bhis | blo =>
    exact ⟨_, .branch rfl⟩
  | com | inc | dec | neg | adc | sbc | ror | rol | asr | asl | swab =>
    exact ⟨_, rfl, fun hP hs => hP.modifyWord_raises hs _ _, fun hP _ hs => hP.modifyWord hs _ _⟩
  | comb | incb | decb | negb | adcb | sbcb | rorb | rolb | asrb | aslb =>
    exact ⟨_, rfl, fun hP hs => hP.modifyByte_raises hs _ _, fun hP _ hs => hP.modifyByte hs _ _⟩
  | clr | sxt =>
    exact ⟨_, rfl, fun hP hs => hP.storeOperandWord_raises hs _ _ _, fun hP _ hs => hP.storeOperandWord hs _ _ _⟩
  | clrb =>
    exact ⟨_, rfl, fun hP hs => hP.storeOperandByte_raises hs _ _ _, fun hP _ hs => hP.storeOperandByte hs _ _ _⟩
  | bic | bis | add | sub =>
    exact ⟨_, rfl, fun hP hs => hP.combineWord_raises hs _ _ _, fun hP _ hs => hP.combineWord hs _ _ _⟩
  | bicb | bisb =>
    exact ⟨_, rfl, fun hP hs => hP.combineByte_raises hs _ _ _, fun hP _ hs => hP.combineByte hs _ _ _⟩
  | cmp | bit =>
    exact ⟨_, rfl, fun hP hs => hP.compareWord_raises hs _ _ _, fun hP _ hs => hP.compareWord hs _ _ _⟩
  | cmpb | bitb =>
    exact ⟨_, rfl, fun hP hs => hP.compareByte_raises hs _ _ _, fun hP _ hs => hP.compareByte hs _ _ _⟩
  | tst =>
    exact ⟨_, rfl, fun hP hs => (hP.readOperandWord hs _).raises.bind_ok,
      fun hP _ hs => (hP.passing.readOperandWord hs _).bind fun _ _ h1 => hP.setFlags h1 _⟩
  | tstb =>
    exact ⟨_, rfl, fun hP hs => (hP.readOperandByte hs _).raises.bind_ok,
      fun hP _ hs => (hP.passing.readOperandByte hs _).bind fun _ _ h1 => hP.setFlags h1 _⟩
  | mov =>
    exact ⟨_, rfl,
      fun hP hs => (hP.sourceDestWord hs _ _).bind_raises fun _ _ h1 => (hP.writeLocWord_raises h1 _ _).bind_ok,
      fun hP _ hs => (hP.passing.sourceDestWord hs _ _).bind fun _ _ h1 =>
        (hP.writeLocWord h1 _ _).bind fun _ _ h2 => hP.setFlags h2 _⟩
  | movb =>
    exact ⟨_, rfl,
      fun hP hs => (hP.sourceDestByte hs _ _).bind_raises fun _ _ h1 => (hP.writeLocSext_raises h1 _ _).bind_ok,
      fun hP _ hs => (hP.passing.sourceDestByte hs _ _).bind fun _ _ h1 =>
        (hP.writeLocSext h1 _ _).bind fun _ _ h2 => hP.setFlags h2 _⟩
  | mfps =>
    exact ⟨_, rfl,
      fun hP hs => (hP.resolve hs _ _).bind_raises fun _ _ h1 => (hP.writeLocSext_raises h1 _ _).bind_ok,
      fun hP _ hs => (hP.passing.resolve hs _ _).bind fun _ _ h1 =>
        (hP.writeLocSext h1 _ _).bind fun _ _ h2 => hP.setFlags h2 _⟩
  | mtps =>
    exact ⟨_, rfl, fun hP hs => (hP.readOperandByte hs _).raises.bind_ok,
      fun hP hps hs => (hP.passing.readOperandByte hs _).bind fun _ _ h1 => (hps rfl).writePs _ _ h1⟩
  | mark =>
    exact ⟨_, rfl, fun hP hs => (hP.pop (hP.setReg (hP.setReg hs _ _) _ _)).raises.bind_ok,
      fun hP _ hs => (hP.passing.pop (hP.setReg (hP.setReg hs _ _) _ _)).bind fun _ _ h1 => hP.setReg h1 _ _⟩
  | rti =>
    exact ⟨_, rfl, fun hP hs => (hP.trapReturn_raises hs).bind_ok,
      fun hP hps hs => (hP.trapReturn (hps rfl).writePs hs).bind fun _ _ h1 => (hps rfl).traceArmed _ _ h1⟩
  | unlisted000006 =>
    by_cases hsup : s.params.supplementPresent = true
    · exact ⟨_, if_pos hsup, fun hP hs => (hP.trapReturn_raises hs).bind_ok,
        fun hP hps hs => (hP.trapReturn (hps rfl).writePs hs).bind fun _ _ h1 => (hps rfl).traceArmed _ _ h1⟩
    · exact ⟨_, .of_raise .reservedInstruction (if_neg hsup)⟩
  | unlisted1040xx =>
    by_cases hsup : s.params.supplementPresent = true
    · exact ⟨_, .of_raise .emt (if_pos hsup)⟩
    · exact ⟨_, .of_raise .reservedInstruction (if_neg hsup)⟩
  | unlisted1044xx =>
    by_cases hsup : s.params.supplementPresent = true
    · exact ⟨_, .of_raise .trap (if_pos hsup)⟩
    · exact ⟨_, .of_raise .reservedInstruction (if_neg hsup)⟩
  | unlisted000003 =>
    cases hb : s.params.bptWord with
    | word3 => exact ⟨_, .of_raise .breakpoint (by simp only [exec, execUnlisted000003, hb])⟩
    | word4 => exact ⟨_, .of_raise .reservedInstruction (by simp only [exec, execUnlisted000003, hb])⟩
  | bpt =>
    cases hb : s.params.bptWord with
    | word4 => exact ⟨_, .of_raise .breakpoint (by simp only [exec, execBpt, hb])⟩
    | word3 =>
      by_cases hsup : s.params.supplementPresent = true
      · exact ⟨_, .of_raise .iot (by simp only [exec, execBpt, hb, if_pos hsup])⟩
      · exact ⟨_, .of_raise .reservedInstruction (by simp only [exec, execBpt, hb, if_neg hsup])⟩
  | jmp =>
    exact ⟨_, rfl,
      fun hP hs => (hP.jumpAddress hs _).bind_raises fun a _ h1 => (evenTarget_holds h1 a).raises.bind_ok,
      fun hP _ hs => (hP.passing.jumpAddress hs _).bind fun a _ h1 =>
        (evenTarget_holds h1 a).bind fun _ _ h2 => hP.setReg h2 _ _⟩
  | jsr reg dst =>
    by_cases hm : dst.mode = .register
    · exact ⟨_, .of_raise .illegalJump (by simp only [exec, execJsr, if_pos hm, finish_exn])⟩
    by_cases hr : reg = .r6
    · exact ⟨_, .of_refused (r := .linkageRegisterSp "JSR")
        (by simp only [exec, execJsr, if_neg hm, if_pos hr, finish_refused])⟩
    refine ⟨_, by simp only [exec, execJsr, if_neg hm, if_neg hr]; rfl, ?raises, ?holds⟩
    case raises =>
      exact fun hP hs => (hP.jumpAddress hs _).bind_raises fun a _ h1 =>
        (evenTarget_holds h1 a).bind_raises fun _ _ h2 => (hP.push_raises h2 _).bind_ok
    case holds =>
      exact fun hP _ hs => (hP.passing.jumpAddress hs _).bind fun a _ h1 => (evenTarget_holds h1 a).bind fun _ _ h2 =>
        (hP.push h2 _).bind fun _ _ h3 => hP.setReg (hP.setReg h3 _ _) _ _
  | rts reg =>
    by_cases hr : reg = .r6
    · exact ⟨_, .of_refused (r := .linkageRegisterSp "RTS") (by simp only [exec, execRts, if_pos hr, finish_refused])⟩
    · exact ⟨_, by simp only [exec, execRts, if_neg hr]; rfl,
        fun hP hs => (hP.pop (hP.setReg hs _ _)).raises.bind_ok,
        fun hP _ hs => (hP.passing.pop (hP.setReg hs _ _)).bind fun _ _ h1 => hP.setReg h1 _ _⟩
  | mul =>
    exact ⟨_, rfl, fun hP hs => requireEis_raises (hP.readOperandWord hs _).raises.bind_ok,
      fun hP _ hs => requireEis_holds ((hP.passing.readOperandWord hs _).bind fun _ _ h1 =>
        hP.setFlags (hP.setPair h1 _ _) _)⟩
  | ash =>
    exact ⟨_, rfl, fun hP hs => requireEis_raises (hP.readOperandWord hs _).raises.bind_ok,
      fun hP _ hs => requireEis_holds ((hP.passing.readOperandWord hs _).bind fun _ _ h1 =>
        hP.setFlags (hP.setReg h1 _ _) _)⟩
  | div reg src =>
    refine ⟨_, rfl, fun hP hs => requireEis_raises ?_, fun hP _ hs => requireEis_holds ?_⟩ <;> split
    · exact (hP.readOperandWord hs _).raises.bind_ok
    · trivial
    · exact (hP.passing.readOperandWord hs _).bind fun _ _ h1 => hP.divideInto h1 _ _
    · trivial
  | ashc reg src =>
    refine ⟨_, rfl, fun hP hs => requireEis_raises ?_, fun hP _ hs => requireEis_holds ?_⟩ <;> split
    · exact (hP.readOperandWord hs _).raises.bind_ok
    · trivial
    · exact (hP.passing.readOperandWord hs _).bind fun _ _ h1 => hP.setFlags (hP.setPair h1 _ _) _
    · trivial
  | xor =>
    exact ⟨_, rfl, fun hP hs => requireEis_raises (hP.modifyWord_raises hs _ _),
      fun hP _ hs => requireEis_holds (hP.modifyWord hs _ _)⟩
  | sob reg off6 =>
    refine ⟨_, rfl, fun hP hs => requireEis_raises ?_, fun hP _ hs => requireEis_holds ?_⟩ <;> dsimp only <;> split
    · trivial
    · trivial
    · exact hP.setReg hs _ _
    · exact hP.setReg (hP.setReg hs _ _) _ _

/-! ## What trap entry, the boundary and a step keep -/

theorem enterVector_holds {P : State → Prop} (hP : Closed P) (hrun : ∀ s r, P s → P { s with run := r })
    (hps : ∀ s v, P s → P (s.writePs v)) {s : State} (h : P s) (v : Word) : (enterVector v s).Holds P := by
  refine (hP.passing.readWord h v).bind fun newPc s1 h1 => (hP.passing.readWord h1 _).bind fun newPs s2 h2 => ?_
  split
  · trivial
  · exact (hP.push h2 _).bind fun _ _ h3 => (hP.push h3 _).bind fun _ _ h4 =>
      hrun _ _ (hps _ _ (hP.setReg h4 _ _))

/-- `P` is kept by all that the machine does but the double fault, from which `Q` is left; `Q` is what every step
keeps. -/
structure KeptBySteps (P Q : State → Prop) : Prop extends ClosedControl P, PsClosed P where
  powerFail : ∀ s b, P s → P { s with powerFail := b }
  haltRequest : ∀ s b, P s → P { s with haltRequest := b }
  weaken : ∀ s, P s → Q s
  doubleFault : ∀ s, P s → Q s.afterDoubleFault
  alive : ∀ s, Q s → s.run ≠ .halted → P s

namespace KeptBySteps

variable {P Q : State → Prop} (hK : KeptBySteps P Q)
include hK

theorem trapEntry {s t : State} {v : Word} (hs : P s) (h : trapEntry v s = .next t) : Q t := by
  have hv := enterVector_holds hK.toClosed hK.run hK.writePs hs v
  obtain hok | ⟨e, u, hexn, rfl⟩ := trapEntry_next h
  · rw [hok] at hv; exact hK.weaken _ hv
  · rw [hexn] at hv; exact hK.doubleFault _ hv

theorem raise {s t : State} {e : Exn} (hs : P s) (h : raise e s = .next t) : Q t :=
  hK.trapEntry (hK.traceArmed _ _ hs) h

theorem exec {s t : State} {i : Instr} (hs : P s) (h : exec i s = .next t) : Q t := by
  obtain ⟨x, hx⟩ := exists_performs i s
  have hh := hx.holds hK.toClosedControl (fun _ => hK.toPsClosed) hs
  rw [hx.exec] at h
  obtain ⟨_, rfl⟩ | ⟨e, u, rfl, h⟩ := finish_next h
  · exact hK.weaken _ hh
  · exact hK.raise hh h

theorem traceCheck {s t : State} (hs : Q s) (hr : s.run ≠ .halted) (h : traceCheck s = .next t) : Q t := by
  unfold Machine.traceCheck at h
  split at h
  · exact hK.trapEntry (hK.traceArmed _ _ (hK.alive _ hs hr)) h
  · cases h; exact hs

theorem powerFailCheck {s t : State} (hs : Q s) (hr : s.run ≠ .halted) (h : powerFailCheck s = .next t) : Q t := by
  unfold Machine.powerFailCheck at h
  split at h
  · exact hK.trapEntry (hK.powerFail _ _ (hK.alive _ hs hr)) h
  · cases h; exact hs

theorem haltCheck {s t : State} (hs : Q s) (hr : s.run ≠ .halted) (h : haltCheck s = .next t) : Q t := by
  unfold Machine.haltCheck at h
  split at h
  · cases h; exact hK.weaken _ (hK.haltRequest _ false (hK.run _ .halted (hK.alive _ hs hr)))
  · cases h; exact hs

theorem acceptRequest {s t : State} {r : Request} {n : Nat} (hs : Q s) (hr : s.run ≠ .halted)
    (h : acceptRequest r n s = .next t) : Q t :=
  hK.trapEntry (hK.draws _ _ (hK.requests _ _ List.filter_sublist (hK.alive _ hs hr))) h

theorem boundary {s t : State} (hs : Q s) (h : boundary s = .next t) : Q t := by
  obtain ⟨s1, s2, s3, h1, h2, h3, h4⟩ := boundary_next h
  have k1 : Q s1 := unlessHalted_keeps hs (hK.traceCheck hs) h1
  have k2 : Q s2 := unlessHalted_keeps k1 (hK.powerFailCheck k1) h2
  have k3 : Q s3 := unlessHalted_keeps k2 (hK.haltCheck k2) h3
  exact acceptInterrupts_keeps (fun _ _ _ _ hr hu => hK.acceptRequest hu hr) _ k3 h4

theorem step {s t : State} (hs : Q s) (h : step s = .next t) : Q t := by
  have hfetch (hr : s.run = .running) : (fetchInstr s).Holds P :=
    (hK.passing.fetch (hK.traceArmed _ _ (hK.alive _ hs (by rw [hr]; decide)))).bind fun _ _ h1 => h1
  obtain ⟨hr, i, u, hf, h⟩ | ⟨hr, e, u, hf, h⟩ | ⟨-, hb, -⟩ := step_next h
  · obtain ⟨w, hw, hb⟩ := settle_next.mp h
    have hu := hfetch hr
    rw [hf] at hu
    exact hK.boundary (hK.exec hu hw) hb
  · obtain ⟨w, hw, hb⟩ := settle_next.mp h
    have hu := hfetch hr
    rw [hf] at hu
    exact hK.boundary (hK.raise hu hw) hb
  · exact hK.boundary hs hb

end KeptBySteps

/-! ## The parameters -/

theorem params_kept (p : Params) : KeptBySteps (fun s => s.params = p) (fun s => s.params = p) where
  regs _ _ h := h
  draws _ _ h := h
  flags _ _ h := h
  transfers _ _ _ h := h
  store _ _ _ _ h := h
  run _ _ h := h
  requests _ _ _ h := h
  writePs _ _ h := h
  traceArmed _ _ h := h
  powerFail _ _ h := h
  haltRequest _ _ h := h
  weaken _ h := h
  doubleFault _ h := h
  alive _ h _ := h

/-- Settles O11: no update writes the parameters. -/
theorem stepKeepsParameters : Obligations.StepKeepsParameters := fun _ _ h => (params_kept _).step rfl h

/-! ## The invariant -/

theorem masked_clear (v m : Word) : v &&& m &&& ~~~m = 0#16 := by
  rw [BitVec.and_assoc]; simp

theorem inv_writePs {s : State} (h : s.Inv) (v : Word) : (s.writePs v).Inv := by
  obtain ⟨hp, hm, htop, -, hrest⟩ := h
  exact ⟨hp, hm, htop, masked_clear _ _, hrest⟩

theorem inv_storeByte {s : State} {a : Word} (b : Byte) (hr : region s.params a 1 = .ram) (h : s.Inv) :
    (s.storeByte a b).Inv := by
  obtain ⟨hp, hm, htop, hrest⟩ := h
  have ha : a.toNat < s.params.ramTop := by have := region_eq_ram.mp hr; omega
  exact ⟨hp, State.wf_storeByte a b hm,
    Memory.all_write (fun k => decide (k < s.params.ramTop)) (decide_eq_true ha) htop,
    hrest⟩

theorem inv_requests {s : State} {rs : List Request} (hrs : List.Sublist rs s.pending) (h : s.Inv) :
    ({ s with pending := rs } : State).Inv := by
  obtain ⟨hp, hm, htop, hps, hnd, hdf, hdev⟩ := h
  refine ⟨hp, hm, htop, hps, hnd.sublist hrs, hdf, fun hd => ⟨?_, (hdev hd).2⟩⟩
  exact List.eq_nil_of_sublist_nil ((hdev hd).1 ▸ hrs)

theorem inv_transfers {s : State} {xs : List (List DeviceStore)} (hxs : xs <:+ s.transfers) (h : s.Inv) :
    ({ s with transfers := xs } : State).Inv := by
  obtain ⟨hp, hm, htop, hps, hnd, hdf, hdev⟩ := h
  refine ⟨hp, hm, htop, hps, hnd, hdf, fun hd => ⟨(hdev hd).1, ?_⟩⟩
  exact List.suffix_nil.mp ((hdev hd).2 ▸ hxs)

/-- The parts of an instruction keep the invariant, whatever the run state. -/
theorem inv_closed : Closed State.Inv where
  regs _ _ h := h
  draws _ _ h := h
  flags _ _ h := inv_writePs h _
  transfers _ _ hxs h := inv_transfers hxs h
  store _ _ _ hr h := inv_storeByte _ hr h

/-- A machine that is not halted is in no double fault, which is what lets the run state be written (R241). -/
theorem inv_kept : KeptBySteps (fun s => s.Inv ∧ s.doubleFault = false) State.Inv where
  regs _ _ h := h
  draws _ _ h := h
  flags _ _ h := ⟨inv_closed.setFlags h.1 _, h.2⟩
  transfers _ _ hxs h := ⟨inv_transfers hxs h.1, h.2⟩
  store _ _ _ hr h := ⟨inv_storeByte _ hr h.1, h.2⟩
  run _ _ := fun ⟨⟨hp, hm, htop, hps, hnd, _, hdev⟩, hdf⟩ =>
    ⟨⟨hp, hm, htop, hps, hnd, fun h => absurd (hdf.symm.trans h) (by decide), hdev⟩, hdf⟩
  requests _ _ hrs h := ⟨inv_requests hrs h.1, h.2⟩
  writePs _ _ h := ⟨inv_writePs h.1 _, h.2⟩
  traceArmed _ _ h := h
  powerFail _ _ h := h
  haltRequest _ _ h := h
  weaken _ h := h.1
  doubleFault _ := fun ⟨⟨hp, hm, htop, hps, hnd, _, hdev⟩, _⟩ => ⟨hp, hm, htop, hps, hnd, fun _ => rfl, hdev⟩
  alive s h hr := ⟨h, by
    obtain ⟨-, -, -, -, -, hdf, -⟩ := h
    exact Bool.eq_false_iff.mpr fun hd => hr (hdf hd)⟩

/-- Settles O9: evaluated. -/
theorem resetHasInvariant : Obligations.ResetHasInvariant := by
  unfold Obligations.ResetHasInvariant State.Inv
  decide

/-- Settles O10: while the machine is not halted every update keeps the invariant, and only a double fault sets the
fault marker, halting it. -/
theorem stepKeepsInvariant : Obligations.StepKeepsInvariant := fun _ _ hs h => inv_kept.step hs h

theorem inv_byDevice {s : State} {act : State → State} (h : s.Inv)
    (ha : s.params.devices ≠ [] → (act s).Inv) : (s.byDevice act).Inv := by
  by_cases hd : s.params.devices = []
  · rw [State.byDevice_of_none hd]; exact h
  · rw [State.byDevice_of_some hd]; exact ha hd

theorem inv_deviceRequests {s : State} (h : s.Inv) (r : Request) : (s.deviceRequests r).Inv := by
  refine inv_byDevice h fun hd => ?_
  split
  · exact h
  · rename_i hr
    obtain ⟨hp, hm, htop, hps, hnd, hdf, -⟩ := h
    have hr : r ∉ s.pending := by simpa using hr
    exact ⟨hp, hm, htop, hps, List.nodup_append.mpr ⟨hnd, List.nodup_singleton r, by
      rintro a ha b hb rfl; exact hr (List.mem_singleton.mp hb ▸ ha)⟩, hdf, fun hn => absurd hn hd⟩

theorem inv_deviceTransfers {s : State} (h : s.Inv) (gs : List (List DeviceStore)) : (s.deviceTransfers gs).Inv := by
  refine inv_byDevice h fun hd => ?_
  obtain ⟨hp, hm, htop, hps, hnd, hdf, -⟩ := h
  exact ⟨hp, hm, htop, hps, hnd, hdf, fun hn => absurd hn hd⟩

theorem mem_deviceRequests {s : State} (hd : s.params.devices ≠ []) (r : Request) :
    r ∈ (s.deviceRequests r).pending := by
  rw [State.deviceRequests, State.byDevice_of_some hd]
  split
  · rename_i hr; simpa using hr
  · simp

/-- Settles O12: with no device the inputs of one do nothing; with a device each of them keeps the invariant. -/
theorem inputsKeepInvariant : Obligations.InputsKeepInvariant := by
  intro s
  refine ⟨fun h => ⟨fun r => ⟨inv_deviceRequests h r, ?withdraws⟩, inv_deviceTransfers h, fun a b => ?stores, h, h⟩,
    fun hd => ⟨fun r => ⟨State.byDevice_of_none hd _, State.byDevice_of_none hd _⟩,
      fun _ => State.byDevice_of_none hd _, fun _ _ => State.byDevice_of_none hd _⟩,
    fun hd r => ⟨mem_deviceRequests hd r, ?withdrawn⟩⟩
  case withdraws => exact inv_byDevice h fun _ => inv_requests List.filter_sublist h
  case stores => exact inv_byDevice h fun _ => inv_closed.deviceStoreAll h [⟨a, b⟩]
  case withdrawn => rw [State.deviceWithdraws, State.byDevice_of_some hd]; simp

/-! ## The control bits of the PS -/

/-- The PS holds nothing outside the mask, and of it only the condition codes differ from `s`. -/
abbrev OnlyFlagsOf (s t : State) : Prop :=
  t.params = s.params ∧ t.ps &&& ~~~t.params.psMask = 0#16 ∧ SamePsButFlags s t

theorem onlyFlagsOf_closed (s : State) : ClosedControl (OnlyFlagsOf s) where
  regs _ _ h := h
  draws _ _ h := h
  flags t f := fun ⟨hp, hm, hs⟩ => ⟨hp, masked_clear _ _, (State.setFlags_rest t f hm).trans hs⟩
  transfers _ _ _ h := h
  store _ _ _ _ h := h
  run _ _ h := h
  requests _ _ _ h := h

/-- T and the mode bits, and the priority, lie outside the condition codes (R16). -/
theorem controlBits_of_samePsButFlags {s t : State} (h : SamePsButFlags s t) :
    t.ps &&& 0o170020#16 = s.ps &&& 0o170020#16 ∧ t.priority = s.priority := by
  have sub (p : Word) : p &&& 0o170020#16 = p &&& 0o177760#16 &&& 0o170020#16 := by rw [BitVec.and_assoc]; rfl
  have pri (p : Word) : p.extractLsb' 5 3 = (p &&& 0o177760#16).extractLsb' 5 3 := by
    rw [BitVec.extractLsb'_and]
    exact BitVec.and_allOnes.symm
  exact ⟨by rw [sub, h, ← sub], by rw [State.priority, pri, h, ← pri]; rfl⟩

/-- What MTPS writes keeps T and the high byte, and so the mode bits (R158). -/
theorem mtps_keeps_controlBits {p m : Word} (b : Byte) (h : p &&& ~~~m = 0#16) :
    ((p &&& 0o177420#16) ||| (b.setWidth 16 &&& 0o357#16)) &&& m &&& 0o170020#16 = p &&& 0o170020#16 := by
  have hp : p &&& 0o177420#16 &&& 0o170020#16 = p &&& 0o170020#16 := by rw [BitVec.and_assoc]; rfl
  have hb : b.setWidth 16 &&& 0o357#16 &&& 0o170020#16 = 0#16 := by rw [BitVec.and_assoc]; exact BitVec.and_zero
  rw [BitVec.and_assoc, BitVec.and_comm m, ← BitVec.and_assoc, BitVec.and_or_distrib_right, hp, hb, BitVec.or_zero,
    BitVec.and_assoc, BitVec.and_comm _ m, ← BitVec.and_assoc, masked_of_clear h]

/-- An instruction that ends in a next state completed its part, or took the trap of the exception it raised in the
state it had reached (R238). -/
theorem completes_or_traps {i : Instr} {s t : State} {x : Res Unit} (hexec : exec i s = finish x)
    (hraises : ∀ {P : State → Prop}, Passing P → P s → x.Raises P) (h : exec i s = .next t) :
    (∃ a, x = .ok a t) ∨
      ∃ e u n, Traps i s e u ∧ AfterSteps s u n ∧ u.ps = s.ps ∧ SameMemory s u ∧ SameControl s u := by
  rw [hexec] at h
  obtain hok | ⟨e, u, rfl, hraise⟩ := finish_next h
  · exact .inl hok
  · obtain ⟨n, hn⟩ : ∃ n, AfterSteps s u n := hraises (AfterSteps.passing s) ⟨0, .refl s⟩
    obtain ⟨hps, hmem, hctl⟩ := hn.frame
    have ⟨_, _, _, _, _, _, _, hparams⟩ := hctl
    exact .inr ⟨e, u, n, by rw [Traps, hexec, finish_exn, raise, hparams], hn, hps, hmem, hctl⟩

/-- Settles O13: every part but those that write the whole PS keeps all of it but the condition codes; MTPS's own write
keeps T and the mode bits. -/
theorem onlyTrapsAndReturnsWriteControlBits : Obligations.OnlyTrapsAndReturnsWriteControlBits := by
  intro i s t hi h hrti hrtt
  have ⟨_, _, _, hmasked, _⟩ := hi
  by_cases hmtps : ∃ o, i = .mtps o
  · obtain ⟨o, rfl⟩ := hmtps
    refine (completes_or_traps rfl (fun hP hs => (hP.readOperandByte hs o).raises.bind_ok) h).symm.imp_right fun ⟨_,
      hok⟩ => ?_
    obtain ⟨b, s1, hread, hok⟩ := Res.bind_eq_ok.mp hok
    obtain ⟨hmoved, -⟩ := readOperandByte_moved hread
    cases hok
    refine ⟨?_, fun hne => absurd rfl (hne o)⟩
    rw [State.writePs_ps, hmoved.ps, hmoved.params]
    exact mtps_keeps_controlBits b hmasked
  · obtain ⟨x, hx⟩ := exists_performs i s
    refine (completes_or_traps hx.exec hx.raises h).symm.imp_right fun ⟨_, hok⟩ => ?_
    have hw : writesPs i ≠ true := fun hw => (of_writesPs hw).elim hmtps (Or.rec hrti hrtt)
    have hh := hx.holds (onlyFlagsOf_closed s) (fun h => absurd h hw) ⟨rfl, hmasked, rfl⟩
    rw [hok] at hh
    have ⟨hbits, hpri⟩ := controlBits_of_samePsButFlags hh.2.2
    exact ⟨hbits, fun _ => hpri⟩

end Sys2Proof.Machine
end

section
/-! Memory accesses (R33 to R41, R44): which of them are made, and what a read gives. -/

namespace Sys2Proof.Machine

/-! ## Accesses that raise -/

theorem readWord_odd {a : Word} (s : State) (h : isOdd a = true) : readWord a s = .exn (.oddAddress a) s := if_pos h

theorem writeWord_odd {a : Word} (w : Word) (s : State) (h : isOdd a = true) :
    writeWord a w s = .exn (.oddAddress a) s := if_pos h

theorem readWord_absent {a : Word} {s : State} (he : isOdd a = false) (hr : region s.params a 2 = .absent) :
    readWord a s = .exn (.busTimeout a) s.busTurn := by
  simp [readWord, he, readWordNow, hr]

theorem writeWord_absent {a : Word} (w : Word) {s : State} (he : isOdd a = false)
    (hr : region s.params a 2 = .absent) : writeWord a w s = .exn (.busTimeout a) s.busTurn := by
  simp [writeWord, he, writeWordNow, hr]

theorem readByte_absent {a : Word} {s : State} (hr : region s.params a 1 = .absent) :
    readByte a s = .exn (.busTimeout a) s.busTurn := by
  simp [readByte, readByteNow, hr]

theorem writeByte_absent {a : Word} (b : Byte) {s : State} (hr : region s.params a 1 = .absent) :
    writeByte a b s = .exn (.busTimeout a) s.busTurn := by
  simp [writeByte, writeByteNow, hr]

/-! ## Accesses that are answered -/

theorem readWord_device {a : Word} {s : State} (he : isOdd a = false) (hr : region s.params a 2 = .device) :
    readWord a s = .ok (Config.freeWord s.draws) { s.busTurn with draws := s.draws + 1 } := by
  simp [readWord, he, readWordNow, hr]

theorem readByte_device {a : Word} {s : State} (hr : region s.params a 1 = .device) :
    readByte a s = .ok (Config.freeByte s.draws) { s.busTurn with draws := s.draws + 1 } := by
  simp [readByte, readByteNow, hr]

theorem ramByte_ne_exn (a : Word) (s : State) (e : Exn) (u : State) : ramByte a s ≠ .exn e u := by
  unfold ramByte; split <;> simp

theorem readWord_ne_exn {a : Word} {s : State} (he : isOdd a = false) (hr : region s.params a 2 ≠ .absent) (e : Exn)
    (u : State) : readWord a s ≠ .exn e u := by
  cases hreg : region s.params a 2 with
  | absent => exact absurd hreg hr
  | device => rw [readWord_device he hreg]; simp
  | ram =>
    simp only [readWord, he, readWordNow, State.busTurn_params, hreg, Bool.false_eq_true, if_false]
    cases hlo : ramByte a s.busTurn with
    | exn e' u' => exact absurd hlo (ramByte_ne_exn _ _ _ _)
    | ok lo s1 =>
      rw [Res.bind_ok]
      cases hhi : ramByte (a + 1#16) s1 with
      | exn e' u' => exact absurd hhi (ramByte_ne_exn _ _ _ _)
      | _ => simp
    | _ => simp

theorem readByte_ne_exn {a : Word} {s : State} (hr : region s.params a 1 ≠ .absent) (e : Exn) (u : State) :
    readByte a s ≠ .exn e u := by
  cases hreg : region s.params a 1 with
  | absent => exact absurd hreg hr
  | device => rw [readByte_device hreg]; simp
  | ram => simpa [readByte, readByteNow, hreg] using ramByte_ne_exn a s.busTurn e u

/-- Settles O16: one access law for each clause. -/
theorem accessExceptions : Obligations.AccessExceptions := by
  intro s a w b
  refine ⟨fun ho => ⟨readWord_odd s ho, writeWord_odd w s ho⟩,
    fun he hr => ⟨readWord_absent he hr, writeWord_absent w he hr⟩,
    fun hr => ⟨readByte_absent hr, writeByte_absent b hr⟩, fun he hr => ?word, fun hr => ?byte⟩
  case word =>
    exact ⟨⟨_, writeWord_eq_ok.mpr ⟨⟨he, hr⟩, rfl⟩⟩, readWord_ne_exn he hr, readWord_ram he,
      fun hd => ⟨_, _, readWord_device he hd⟩⟩
  case byte =>
    exact ⟨⟨_, writeByte_eq_ok.mpr ⟨hr, rfl⟩⟩, readByte_ne_exn hr, readByte_ram, fun hd => ⟨_, _, readByte_device hd⟩⟩

/-! ## Bytes of a word -/

/-- The two bytes of a word of RAM are bytes of RAM (R33, R40). -/
theorem region_bytes_of_word {p : Params} {a : Word} (he : isOdd a = false) (hr : region p a 2 = .ram) :
    region p a 1 = .ram ∧ region p (a + 1#16) 1 = .ram := by
  rw [region_eq_ram] at hr
  rw [region_eq_ram, region_eq_ram, toNat_succ_of_even he]
  omega

/-- Settles O14: the bytes joined are those of the word, and each is read as a byte. -/
theorem wordIsLittleEndian : Obligations.WordIsLittleEndian := by
  intro s a lo hi he hr hlo hhi
  obtain ⟨h0, h1⟩ := region_bytes_of_word he hr
  have hread : readWord a s = .ok (joinBytes hi lo) s.busTurn :=
    readWord_ram he hr ⟨by rw [lowByte_joinBytes, hlo], by rw [highByte_joinBytes, hhi]⟩
  refine ⟨joinBytes hi lo, hread, lowByte_joinBytes hi lo, highByte_joinBytes hi lo, readByte_ram h0 hlo,
    readByte_ram h1 (by rw [toNat_succ_of_even he, hhi]), ?_⟩
  rintro rfl
  exact fetch_of_read hread

/-! ## Reads after writes -/

/-- A byte to which no device stores is there after the devices' turn too (R44). -/
theorem read_busTurn_of_not {s t : State} {x : Nat} {b : Byte} (hx : t.transfers <:+ s.transfers)
    (hn : ¬ s.DeviceStoresTo x) (h : t.mem.read x = some b) : t.busTurn.mem.read x = some b :=
  (busTurn_sameMemory t x fun hd => hn (hd.mono hx)).trans h

/-- A word written, then read by bytes (R34). -/
theorem readByte_after_putWord {s : State} {a : Word} (w : Word) (he : isOdd a = false)
    (hr : region s.params a 2 = .ram) :
    (¬ s.DeviceStoresTo a.toNat → readByte a (s.putWord a w) = .ok (lowByte w) (s.putWord a w).busTurn) ∧
      (¬ s.DeviceStoresTo (a.toNat + 1) →
        readByte (a + 1#16) (s.putWord a w) = .ok (highByte w) (s.putWord a w).busTurn) := by
  obtain ⟨⟨hlo, hhi⟩, -⟩ := putWord_ram w he hr
  obtain ⟨h0, h1⟩ := region_bytes_of_word he hr
  have hx := State.putWord_transfers s a w
  exact ⟨fun hn => readByte_ram (by rw [State.putWord_params]; exact h0) (read_busTurn_of_not hx hn hlo),
    fun hn => readByte_ram (by rw [State.putWord_params]; exact h1)
      (by rw [toNat_succ_of_even he]; exact read_busTurn_of_not hx hn hhi)⟩

/-- Two bytes written, then read as a word (R34). -/
theorem readWord_after_putBytes {s : State} {a : Word} (p q : Byte) (he : isOdd a = false)
    (hr : region s.params a 2 = .ram) (hn0 : ¬ s.DeviceStoresTo a.toNat) (hn1 : ¬ s.DeviceStoresTo (a.toNat + 1)) :
    readWord a ((s.putByte a p).putByte (a + 1#16) q) =
      .ok (joinBytes q p) ((s.putByte a p).putByte (a + 1#16) q).busTurn := by
  obtain ⟨h0, h1⟩ := region_bytes_of_word he hr
  have hs : (a + 1#16).toNat = a.toNat + 1 := toNat_succ_of_even he
  obtain ⟨hp, -⟩ := putByte_ram p h0
  obtain ⟨hq, hkeep⟩ := putByte_ram (s := s.putByte a p) (a := a + 1#16) q (by rw [State.putByte_params]; exact h1)
  have hx1 := State.putByte_transfers s a p
  have hx2 := (State.putByte_transfers (s.putByte a p) (a + 1#16) q).trans hx1
  have hlow := (hkeep a.toNat (fun hd => hn0 (hd.mono hx1)) (by omega)).trans hp
  rw [hs] at hq
  refine readWord_ram he (by rw [State.putByte_params, State.putByte_params]; exact hr) ⟨?_, ?_⟩
  · rw [lowByte_joinBytes]; exact read_busTurn_of_not hx2 hn0 hlow
  · rw [highByte_joinBytes]; exact read_busTurn_of_not hx2 hn1 hq

/-! ## Reads after device stores -/

theorem State.deviceStoreAll_append (ds es : List DeviceStore) (s : State) :
    s.deviceStoreAll (ds ++ es) = (s.deviceStoreAll ds).deviceStoreAll es := by
  induction ds generalizing s with
  | nil => rfl
  | cons d ds ih => exact ih _

/-- The last byte a device stores in its turn is what the access reads (R39, R44). -/
theorem readByte_after_deviceStore {s : State} {ds : List DeviceStore} {d : DeviceStore}
    {gs : List (List DeviceStore)}
    (hx : s.transfers = (ds ++ [d]) :: gs) (hr : region s.params d.address 1 = .ram) :
    readByte d.address s = .ok d.value s.busTurn := by
  have htop := region_eq_ram.mp hr
  refine readByte_ram hr ?_
  rw [State.busTurn_cons hx, State.deviceStoreAll_append]
  show (((s.deviceStoreAll ds).deviceStore d).mem.read d.address.toNat) = some d.value
  rw [State.read_deviceStore, if_pos ⟨rfl, by rw [State.deviceStoreAll_eq]; exact htop⟩]

/-- A word that devices store byte by byte in their turn is there after it (R44). -/
theorem holdsWord_busTurn_of_stores {s : State} {a w : Word} {gs : List (List DeviceStore)} (he : isOdd a = false)
    (hr : region s.params a 2 = .ram) (hx : s.transfers = [⟨a, lowByte w⟩, ⟨a + 1#16, highByte w⟩] :: gs) :
    HoldsWord s.busTurn a w := by
  have htop := region_eq_ram.mp hr
  have hs : (a + 1#16).toNat = a.toNat + 1 := toNat_succ_of_even he
  rw [State.busTurn_cons hx]
  show HoldsWord ((s.deviceStore ⟨a, lowByte w⟩).deviceStore ⟨a + 1#16, highByte w⟩) a w
  have hp : (s.deviceStore ⟨a, lowByte w⟩).params = s.params := by rw [State.deviceStore_eq]
  refine ⟨?_, ?_⟩
  · rw [State.read_deviceStore, if_neg (by dsimp only; omega), State.read_deviceStore, if_pos ⟨rfl, by omega⟩]
  · rw [State.read_deviceStore, if_pos ⟨hs.symm, by rw [hp]; omega⟩]

/-- Settles O15: the byte laws of a write and of the devices' turn, and a word read twice around a turn. -/
theorem mixedWidths : Obligations.MixedWidths := by
  refine ⟨fun s a w p q he hr => ⟨?words, ?bytes⟩, fun s ds d gs hx hr => ?device,
    fun s q v w gs he hr hv hx => ?twice⟩
  case words =>
    exact ⟨s.putWord a w, writeWord_eq_ok.mpr ⟨⟨he, by rw [hr]; decide⟩, rfl⟩, (putWord_ram w he hr).2,
      readByte_after_putWord w he hr⟩
  case bytes =>
    obtain ⟨h0, h1⟩ := region_bytes_of_word he hr
    exact ⟨s.putByte a p, _, writeByte_eq_ok.mpr ⟨by rw [h0]; decide, rfl⟩, (putByte_ram p h0).2,
      writeByte_eq_ok.mpr ⟨by rw [State.putByte_params, h1]; decide, rfl⟩, readWord_after_putBytes p q he hr⟩
  case device => exact ⟨readByte_after_deviceStore hx hr, by rw [State.busTurn_cons hx]⟩
  case twice =>
    have hquiet : s.busTurn = { s with transfers := _ } := State.busTurn_cons hx
    have hfirst : readWord (s.reg q) s = .ok v s.busTurn := readWord_ram he hr (by rw [hquiet]; exact hv)
    refine ⟨s.busTurn, s.busTurn.busTurn, ?_, readWord_ram he (by rw [State.busTurn_params]; exact hr)
      (holdsWord_busTurn_of_stores he (by rw [State.busTurn_params]; exact hr) (by rw [hquiet]))⟩
    simp [sourceDestWord, sourceThenLoc, sameRegisterForm, readOperandWord, resolve, readLocWord, hfirst]

end Sys2Proof.Machine
end

section
/-! The operand forms: the location of each mode, what resolving a field changes, and the forms of R85 (R70 to R85). -/

namespace Sys2Proof.Machine

/-! ## The location of each mode -/

@[simp] theorem resolve_register (n : Size) (r : Reg) (s : State) : resolve n ⟨.register, r⟩ s = .ok (.reg r) s := rfl

@[simp] theorem resolve_deferred (n : Size) (r : Reg) (s : State) :
    resolve n ⟨.deferred, r⟩ s = .ok (.mem (s.reg r)) s := rfl

theorem resolve_autoInc (n : Size) (r : Reg) (s : State) :
    resolve n ⟨.autoInc, r⟩ s = .ok (.mem (s.reg r)) (s.setReg r (s.reg r + step12 r n)) := rfl

theorem resolve_autoDec (n : Size) (r : Reg) (s : State) :
    resolve n ⟨.autoDec, r⟩ s = .ok (.mem (s.reg r - step12 r n)) (s.setReg r (s.reg r - step12 r n)) := by
  simp [resolve]

theorem resolve_autoIncDef_eq (n : Size) (r : Reg) (s : State) :
    resolve n ⟨.autoIncDef, r⟩ s =
      (readWord (s.reg r) s).bind fun a t => .ok (.mem a) (t.setReg r (t.reg r + 2#16)) := rfl

theorem resolve_autoDecDef_eq (n : Size) (r : Reg) (s : State) :
    resolve n ⟨.autoDecDef, r⟩ s =
      (readWord (s.reg r - 2#16) (s.setReg r (s.reg r - 2#16))).bind fun a t => .ok (.mem a) t := by
  simp [resolve]

theorem resolve_index_eq (n : Size) (r : Reg) (s : State) :
    resolve n ⟨.index, r⟩ s = (fetch s).bind fun x t => .ok (.mem (t.reg r + x)) t := rfl

theorem resolve_indexDef_eq (n : Size) (r : Reg) (s : State) :
    resolve n ⟨.indexDef, r⟩ s =
      (fetch s).bind fun x t => (readWord (t.reg r + x) t).bind fun a u => .ok (.mem a) u := rfl

theorem resolve_autoIncDef {n : Size} {r : Reg} {s t : State} {a : Word} (h : readWord (s.reg r) s = .ok a t) :
    resolve n ⟨.autoIncDef, r⟩ s = .ok (.mem a) (t.setReg r (s.reg r + 2#16)) := by
  rw [resolve_autoIncDef_eq, h, Res.bind_ok, (readWord_drawn h).reg]

theorem resolve_autoDecDef {n : Size} {r : Reg} {s t : State} {a : Word}
    (h : readWord (s.reg r - 2#16) (s.setReg r (s.reg r - 2#16)) = .ok a t) :
    resolve n ⟨.autoDecDef, r⟩ s = .ok (.mem a) t := by
  rw [resolve_autoDecDef_eq, h, Res.bind_ok]

/-- The register of an index mode as it stands after the fetch of the index word (R79, R80). -/
theorem reg_after_fetch {s t : State} {x : Word} (h : readWord s.pc s = .ok x t) (r : Reg) :
    (t.setReg .r7 (s.pc + 2#16)).reg r = if r = .r7 then s.pc + 2#16 else s.reg r := by
  rw [State.reg_setReg, (readWord_drawn h).reg]

theorem resolve_index {n : Size} {r : Reg} {s t : State} {x : Word} (h : readWord s.pc s = .ok x t) :
    resolve n ⟨.index, r⟩ s =
      .ok (.mem ((if r = .r7 then s.pc + 2#16 else s.reg r) + x)) (t.setReg .r7 (s.pc + 2#16)) := by
  rw [resolve_index_eq, fetch_of_read h, Res.bind_ok, reg_after_fetch h]

theorem resolve_indexDef {n : Size} {r : Reg} {s t u : State} {x a : Word} (h : readWord s.pc s = .ok x t)
    (h2 : readWord ((if r = .r7 then s.pc + 2#16 else s.reg r) + x) (t.setReg .r7 (s.pc + 2#16)) = .ok a u) :
    resolve n ⟨.indexDef, r⟩ s = .ok (.mem a) u := by
  rw [resolve_indexDef_eq, fetch_of_read h, Res.bind_ok, reg_after_fetch h, h2, Res.bind_ok]

/-- Settles O17: the location lemma of each mode. -/
theorem modesGiveLocations : Obligations.ModesGiveLocations := by
  intro s r n
  refine ⟨rfl, fun a t h => resolve_autoIncDef h, fun a t h => ⟨resolve_autoDecDef h, ?_⟩,
    fun x t h => ⟨resolve_index h, fun a u h2 => resolve_indexDef h h2⟩⟩
  rw [(readWord_drawn h).reg, State.reg_setReg_same]

/-- The step of modes 2 and 4: 1 only for a byte operand through R0 to R5 (R71). -/
theorem step12_eq (r : Reg) (n : Size) : step12 r n = if n = .byte ∧ r ≠ .r6 ∧ r ≠ .r7 then 1#16 else 2#16 := by
  cases n with
  | word => rfl
  | byte => simp only [step12, true_and, ← not_or, ite_not]

/-- Settles O18: register mode steps nothing, and the steps are those of `step12`. -/
theorem autostepLocations : Obligations.AutostepLocations := by
  intro s r n amount
  have hstep : step12 r n = amount := step12_eq r n
  exact ⟨rfl, hstep ▸ resolve_autoInc n r s, hstep ▸ resolve_autoDec n r s⟩

/-- A turn of the devices does not look at the registers (R44). -/
theorem State.busTurn_setReg (s : State) (r : Reg) (v : Word) : (s.setReg r v).busTurn = s.busTurn.setReg r v := by
  rw [State.busTurn_congr (s := s) (t := s.setReg r v) rfl rfl rfl, State.busTurn_eq s]; rfl

/-- Settles O19: register 7 after the fetch of the second word is A+4. -/
theorem registerSevenModes : Obligations.RegisterSevenModes := by
  intro s A x n hpc hA hr hx t u
  have he : isOdd (A + 2#16) = false := by rw [isOdd_add_two]; exact hA
  have h4 : A + 2#16 + 2#16 = A + 4#16 := by bv_omega
  have hreg : s.reg .r7 = A + 2#16 := hpc
  have hread : readWord (A + 2#16) s = .ok x s.busTurn := readWord_ram he hr hx
  have htu : t.busTurn = u := State.busTurn_setReg s .r7 _
  refine ⟨?_, ?_, ?_, ?_, ?_, fun y hye hyr hy => ?_⟩
  · rw [resolve_autoInc, hreg, show step12 .r7 n = 2#16 by cases n <;> rfl, h4]
  · rw [← htu]; exact readWord_ram he hr (by rw [htu]; exact hx)
  · rw [← htu]; exact readByte_ram (region_bytes_of_word he hr).1 (by rw [htu]; exact hx.1)
  · rw [resolve_autoIncDef (by rw [hreg]; exact hread), hreg, h4]
  · rw [resolve_index (by rw [hpc]; exact hread), if_pos rfl, hpc, h4]
  · exact resolve_indexDef (by rw [hpc]; exact hread)
      (by rw [if_pos rfl, hpc, h4]; exact readWord_ram hye (by simpa [u] using hyr) hy)

/-! ## What resolving a field changes -/

theorem Moved.sameControl {s t : State} (h : Moved s t) : SameControl s t :=
  ⟨h.transfers, by rw [h.eq]; exact ⟨rfl, rfl, rfl, rfl, rfl, rfl, rfl⟩⟩

/-- The PC after a field whose mode does not step its register down: 2 further for each following word (R58). -/
theorem resolve_pc {n : Size} {o : Operand} {s t : State} {l : Loc} (h : resolve n o s = .ok l t)
    (h4 : o.mode ≠ .autoDec) (h5 : o.mode ≠ .autoDecDef) : t.pc = s.pc + 2#16 * BitVec.ofNat 16 o.extraWords := by
  have add_one (a : Word) : a + 2#16 * BitVec.ofNat 16 1 = a + 2#16 := rfl
  have add_zero (a : Word) : a + 2#16 * BitVec.ofNat 16 0 = a := by simp
  have step7 (m : Size) : step12 .r7 m = 2#16 := by cases m <;> rfl
  obtain ⟨m, r⟩ := o
  cases m with
  | register => cases h; rw [Operand.extraWords, add_zero]
  | deferred => cases h; rw [Operand.extraWords, add_zero]
  | autoDec => exact absurd rfl h4
  | autoDecDef => exact absurd rfl h5
  | autoInc =>
    cases h
    by_cases hr : r = .r7
    · subst hr; simp only [Operand.extraWords, if_true, add_one, State.pc_eq_reg, State.reg_setReg_same, step7]
    · simp only [Operand.extraWords, if_neg hr, add_zero, State.pc_eq_reg, State.reg_setReg, if_neg (Ne.symm hr)]
  | autoIncDef =>
    obtain ⟨a, u, h1, h2⟩ := Res.bind_eq_ok.mp h
    cases h2
    by_cases hr : r = .r7
    · subst hr
      simp only [Operand.extraWords, if_true, add_one, State.pc_eq_reg, State.reg_setReg_same,
        (readWord_drawn h1).reg]
    · simp only [Operand.extraWords, if_neg hr, add_zero, State.pc_eq_reg, State.reg_setReg, if_neg (Ne.symm hr),
        (readWord_drawn h1).reg]
  | index =>
    obtain ⟨x, u, h1, h2⟩ := Res.bind_eq_ok.mp h
    cases h2
    obtain ⟨v, -, rfl⟩ := fetch_ok h1
    rw [Operand.extraWords, add_one, State.pc_eq_reg, State.reg_setReg_same]
  | indexDef =>
    obtain ⟨x, u, h1, h2⟩ := Res.bind_eq_ok.mp h
    obtain ⟨a, u2, h3, h4⟩ := Res.bind_eq_ok.mp h2
    cases h4
    obtain ⟨v, -, rfl⟩ := fetch_ok h1
    rw [Operand.extraWords, add_one, State.pc_eq_reg, (readWord_drawn h3).reg, State.reg_setReg_same]

/-- Only register mode names a register (R73). -/
theorem resolve_reg_iff {n : Size} {o : Operand} {s t : State} {l : Loc} (h : resolve n o s = .ok l t) :
    (∃ r, l = .reg r) ↔ o.mode = .register := by
  obtain ⟨m, r⟩ := o
  have memory {a : Word} {u : State} (hm : m ≠ .register) (h : (Res.ok (.mem a) u : Res Loc) = .ok l t) :
      (∃ r, l = .reg r) ↔ m = .register := by
    cases h; simp [hm]
  cases m with
  | register => cases h; simp
  | deferred | autoInc | autoDec => exact memory (by decide) h
  | autoIncDef | autoDecDef | index =>
    obtain ⟨a, u, -, h2⟩ := Res.bind_eq_ok.mp h
    exact memory (by decide) h2
  | indexDef =>
    obtain ⟨x, u, -, h2⟩ := Res.bind_eq_ok.mp h
    obtain ⟨a, u2, -, h3⟩ := Res.bind_eq_ok.mp h2
    exact memory (by decide) h3

/-- Settles O20: only the stepped register and the PC, by `resolve_moved` and `resolve_pc`. -/
theorem resolveFrame : Obligations.ResolveFrame := by
  intro s t o n l h
  obtain ⟨hmoved, hregs⟩ := resolve_moved h
  exact ⟨hmoved.memory, hmoved.ps, hmoved.sameControl, hregs, resolve_pc h, resolve_reg_iff h⟩

/-! ## The forms of R85 -/

theorem sourceThenLoc_refuse {α : Type} {n : Size} {read : State → Res α} {src dst : Operand} {s : State}
    (hf : sameRegisterForm src dst = true) (hp : s.params.sameReg = .refuse) :
    sourceThenLoc n read src dst s = .refused .sameRegister := by
  simp [sourceThenLoc, hf, hp]

/-- A form of R85: the destination resolved, the register's value before or after its step (D13). -/
theorem sourceThenLoc_sameRegister {α : Type} {n : Size} {f : Word → α} {r : Reg} {m : Mode} {s t : State} {l : Loc}
    (hf : sameRegisterForm ⟨.register, r⟩ ⟨m, r⟩ = true) (hp : s.params.sameReg ≠ .refuse)
    (h : resolve n ⟨m, r⟩ s = .ok l t) :
    sourceThenLoc n (fun u => .ok (f (u.reg r)) u) ⟨.register, r⟩ ⟨m, r⟩ s =
      .ok (f (if s.params.sameReg = .initial then s.reg r else t.reg r), l) t := by
  unfold sourceThenLoc
  rw [if_pos hf]
  cases hpol : s.params.sameReg with
  | refuse => exact absurd hpol hp
  | initial => simp [h]
  | modified => simp [h]

theorem sourceDestWord_sameRegister {r : Reg} {m : Mode} {s t : State} {l : Loc}
    (hf : sameRegisterForm ⟨.register, r⟩ ⟨m, r⟩ = true) (hp : s.params.sameReg ≠ .refuse)
    (h : resolve .word ⟨m, r⟩ s = .ok l t) :
    sourceDestWord ⟨.register, r⟩ ⟨m, r⟩ s =
      .ok (if s.params.sameReg = .initial then s.reg r else t.reg r, l) t :=
  sourceThenLoc_sameRegister (f := id) hf hp h

theorem sourceDestByte_sameRegister {r : Reg} {m : Mode} {s t : State} {l : Loc}
    (hf : sameRegisterForm ⟨.register, r⟩ ⟨m, r⟩ = true) (hp : s.params.sameReg ≠ .refuse)
    (h : resolve .byte ⟨m, r⟩ s = .ok l t) :
    sourceDestByte ⟨.register, r⟩ ⟨m, r⟩ s =
      .ok (lowByte (if s.params.sameReg = .initial then s.reg r else t.reg r), l) t :=
  sourceThenLoc_sameRegister hf hp h

/-- Settles O21: each form resolves its destination by its mode's lemma, and the policy picks the value. -/
theorem sameRegisterForms : Obligations.SameRegisterForms := by
  intro s r hr x
  have hform {m : Mode} (hm : m.isStepping = true) : sameRegisterForm ⟨.register, r⟩ ⟨m, r⟩ = true := by
    cases m <;> simp_all [sameRegisterForm, Mode.isStepping]
  refine ⟨fun hp m hm => ?refuse, ?run⟩
  case refuse =>
    have hstep : m.isStepping = true := by fin_cases hm <;> rfl
    exact ⟨sourceThenLoc_refuse (hform hstep) hp, sourceThenLoc_refuse (hform hstep) hp⟩
  case run =>
    intro hp used k
    have hk : step12 r .byte = k := by simp [step12, hr, k]
    have hbyte {m : Mode} {l : Loc} {t : State} (hm : m.isStepping = true) (h : resolve .byte ⟨m, r⟩ s = .ok l t) :=
      sourceDestByte_sameRegister (hform hm) hp h
    have hword {m : Mode} {l : Loc} {t : State} (hm : m.isStepping = true) (h : resolve .word ⟨m, r⟩ s = .ok l t) :=
      sourceDestWord_sameRegister (hform hm) hp h
    refine ⟨?_, ?_, ?_, ?_, fun a t h => ⟨?_, ?_⟩, fun a t h => ⟨?_, ?_⟩⟩
    · rw [hword rfl (resolve_autoInc _ r s), State.reg_setReg_same]; rfl
    · rw [hbyte rfl (resolve_autoInc _ r s), State.reg_setReg_same, hk]
    · rw [hword rfl (resolve_autoDec _ r s), State.reg_setReg_same]; rfl
    · rw [hbyte rfl (resolve_autoDec _ r s), State.reg_setReg_same, hk]
    · rw [hword rfl (resolve_autoIncDef h), State.reg_setReg_same]
    · rw [hbyte rfl (resolve_autoIncDef h), State.reg_setReg_same]
    · rw [hword rfl (resolve_autoDecDef h), (readWord_drawn h).reg, State.reg_setReg_same]
    · rw [hbyte rfl (resolve_autoDecDef h), (readWord_drawn h).reg, State.reg_setReg_same]

end Sys2Proof.Machine
end

section
/-! Operands that cannot be read or written (R231, R232, R238): where in an instruction the exception is raised. -/

namespace Sys2Proof.Machine

/-! ## An instruction takes the trap of the exception its part raises -/

theorem traps_of_exn {i : Instr} {s u : State} {α : Type} {x : Res α} {e : Exn} (hexec : exec i s = finish x)
    (hx : x = .exn e u) (hp : u.params = s.params) : Traps i s e u := by
  rw [Traps, hexec, hx, finish_exn, raise, hp]

/-- The parameters are the same in a state that passing parts lead to. -/
theorem params_passing (p : Params) : Passing fun s => s.params = p where
  regs _ _ h := h
  draws _ _ h := h
  busTurn _ h := by rw [State.busTurn_params]; exact h

/-- A memory operand of a word instruction raises on a read and on a write alike, in one state. -/
theorem OperandRaises.word_cases {o : Operand} {s u : State} {e : Exn} (h : OperandRaises .word o s e u) :
    resolve .word o s = .exn e u ∨
      ∃ a t, resolve .word o s = .ok (.mem a) t ∧ readWord a t = .exn e u ∧ ∀ w, writeWord a w t = .exn e u := by
  obtain h | ⟨a, t, hl, ⟨-, ho, rfl, rfl⟩ | ⟨he, rfl, rfl, hr⟩⟩ := h
  · exact .inl h
  · exact .inr ⟨a, u, hl, readWord_odd u ho, fun w => writeWord_odd w u ho⟩
  · have hr : region t.params a 2 = .absent := by rw [(resolve_moved hl).1.params]; exact hr
    exact .inr ⟨a, t, hl, readWord_absent (he rfl) hr, fun w => writeWord_absent w (he rfl) hr⟩

/-- A memory operand of a byte instruction raises on a read and on a write alike, in one state. -/
theorem OperandRaises.byte_cases {o : Operand} {s u : State} {e : Exn} (h : OperandRaises .byte o s e u) :
    resolve .byte o s = .exn e u ∨
      ∃ a t, resolve .byte o s = .ok (.mem a) t ∧ readByte a t = .exn e u ∧ ∀ b, writeByte a b t = .exn e u := by
  obtain h | ⟨a, t, hl, ⟨hn, -⟩ | ⟨-, rfl, rfl, hr⟩⟩ := h
  · exact .inl h
  · cases hn
  · have hr : region t.params a 1 = .absent := by rw [(resolve_moved hl).1.params]; exact hr
    exact .inr ⟨a, t, hl, readByte_absent hr, fun b => writeByte_absent b hr⟩

theorem OperandRaises.params {n : Size} {o : Operand} {s u : State} {e : Exn} (h : OperandRaises n o s e u) :
    u.params = s.params := by
  obtain h | ⟨a, t, hl, ⟨-, -, -, rfl⟩ | ⟨-, -, rfl, -⟩⟩ := h
  · exact ((params_passing s.params).resolve rfl n o).raises.of_exn h
  · exact (resolve_moved hl).1.params
  · rw [State.busTurn_params, (resolve_moved hl).1.params]

/-- A register is always read and written. -/
theorem OperandRaises.mode_ne {n : Size} {o : Operand} {s u : State} {e : Exn} (h : OperandRaises n o s e u) :
    o.mode ≠ .register := by
  intro hm
  obtain ⟨m, r⟩ := o
  cases hm
  obtain h | ⟨a, t, hl, -⟩ := h
  · cases h
  · cases hl

/-! ## Instructions with one operand -/

section Word

variable {o : Operand} {s u : State} {e : Exn} (h : OperandRaises .word o s e u)
include h

theorem readOperandWord_exn : readOperandWord o s = .exn e u := by
  obtain h | ⟨a, t, hl, hread, -⟩ := h.word_cases
  · rw [readOperandWord, h, Res.bind_exn]
  · rw [readOperandWord, hl]; exact hread

theorem modifyWord_exn (f : Word → Flags → Word × Flags) : modifyWord f o s = .exn e u := by
  obtain h | ⟨a, t, hl, hread, -⟩ := h.word_cases
  · rw [modifyWord, h, Res.bind_exn]
  · rw [modifyWord, hl, Res.bind_ok, readLocWord, hread, Res.bind_exn]

theorem storeOperandWord_exn (v : Word) (f : Flags) : storeOperandWord v f o s = .exn e u := by
  obtain h | ⟨a, t, hl, -, hwrite⟩ := h.word_cases
  · rw [storeOperandWord, h, Res.bind_exn]
  · rw [storeOperandWord, hl, Res.bind_ok, writeLocWord, hwrite, Res.bind_exn]

theorem onWord_traps : ∀ i ∈ Instr.onWord o, Traps i s e u := by
  have modify {i : Instr} {f : Word → Flags → Word × Flags} (hi : exec i s = finish (modifyWord f o s)) :
      Traps i s e u := traps_of_exn hi (modifyWord_exn h f) h.params
  have store {i : Instr} {v : Word} {f : Flags} (hi : exec i s = finish (storeOperandWord v f o s)) :
      Traps i s e u := traps_of_exn hi (storeOperandWord_exn h v f) h.params
  have test : Traps (.tst o) s e u := traps_of_exn rfl (by rw [readOperandWord_exn h, Res.bind_exn]) h.params
  simp only [Instr.onWord, List.forall_mem_cons]
  exact ⟨store rfl, modify rfl, modify rfl, modify rfl, modify rfl, modify rfl, modify rfl, test, modify rfl,
    modify rfl, modify rfl, modify rfl, modify rfl, store rfl, by simp⟩

theorem eis_traps (heis : s.params.eisPresent = true) (q : Reg) :
    Traps (.mul q o) s e u ∧ Traps (.ash q o) s e u ∧ Traps (.xor q o) s e u ∧
      (oddPartner q ≠ q → Traps (.div q o) s e u ∧ Traps (.ashc q o) s e u) := by
  have required {i : Instr} {m : String} {x : Res Unit} (hi : exec i s = finish (requireEis m s x))
      (hx : x = .exn e u) : Traps i s e u := traps_of_exn hi (by rw [requireEis, if_pos heis, hx]) h.params
  have hread := readOperandWord_exn h
  refine ⟨required rfl (by rw [hread, Res.bind_exn]), required rfl (by rw [hread, Res.bind_exn]),
    required rfl (modifyWord_exn h _), fun hq => ?_⟩
  have heven : isEvenReg q = true := decide_eq_true hq
  exact ⟨required rfl (by rw [if_pos heven, hread, Res.bind_exn]), required rfl (by rw [if_pos heven, hread,
    Res.bind_exn])⟩

end Word

section Byte

variable {o : Operand} {s u : State} {e : Exn} (h : OperandRaises .byte o s e u)
include h

theorem readOperandByte_exn : readOperandByte o s = .exn e u := by
  obtain h | ⟨a, t, hl, hread, -⟩ := h.byte_cases
  · rw [readOperandByte, h, Res.bind_exn]
  · rw [readOperandByte, hl]; exact hread

theorem modifyByte_exn (f : Byte → Flags → Byte × Flags) : modifyByte f o s = .exn e u := by
  obtain h | ⟨a, t, hl, hread, -⟩ := h.byte_cases
  · rw [modifyByte, h, Res.bind_exn]
  · rw [modifyByte, hl, Res.bind_ok, readLocByte, hread, Res.bind_exn]

theorem storeOperandByte_exn (v : Byte) (f : Flags) : storeOperandByte v f o s = .exn e u := by
  obtain h | ⟨a, t, hl, -, hwrite⟩ := h.byte_cases
  · rw [storeOperandByte, h, Res.bind_exn]
  · rw [storeOperandByte, hl, Res.bind_ok, writeLocByte, hwrite, Res.bind_exn]

theorem mfps_traps : Traps (.mfps o) s e u := by
  obtain hl | ⟨a, t, hl, -, hwrite⟩ := h.byte_cases
  · exact traps_of_exn rfl (by rw [hl, Res.bind_exn]) h.params
  · exact traps_of_exn rfl (by rw [hl, Res.bind_ok, writeLocSext, hwrite, Res.bind_exn]) h.params

theorem onByte_traps : ∀ i ∈ Instr.onByte o, Traps i s e u := by
  have modify {i : Instr} {f : Byte → Flags → Byte × Flags} (hi : exec i s = finish (modifyByte f o s)) :
      Traps i s e u := traps_of_exn hi (modifyByte_exn h f) h.params
  have clear : Traps (.clrb o) s e u := traps_of_exn rfl (storeOperandByte_exn h _ _) h.params
  have read {i : Instr} {k : Byte → State → Res Unit} (hi : exec i s = finish ((readOperandByte o s).bind k)) :
      Traps i s e u := traps_of_exn hi (by rw [readOperandByte_exn h, Res.bind_exn]) h.params
  simp only [Instr.onByte, List.forall_mem_cons]
  exact ⟨clear, modify rfl, modify rfl, modify rfl, modify rfl, modify rfl, modify rfl, read rfl, modify rfl,
    modify rfl, modify rfl, modify rfl, read rfl, mfps_traps h, by simp⟩

end Byte

/-! ## Jumps -/

theorem jumpAddress_exn {o : Operand} {s u : State} {e : Exn} (h : resolve .word o s = .exn e u) :
    jumpAddress o s = .exn e u := by
  have hm : o.mode ≠ .register := OperandRaises.mode_ne (.inl h)
  rw [jumpAddress, if_neg hm, h, Res.bind_exn]

theorem jumps_trap {o : Operand} {s u : State} {e : Exn} (h : resolve .word o s = .exn e u) :
    Traps (.jmp o) s e u ∧ ∀ q, q ≠ .r6 → Traps (.jsr q o) s e u := by
  have hr : OperandRaises .word o s e u := .inl h
  refine ⟨traps_of_exn rfl (by rw [jumpAddress_exn h, Res.bind_exn]) hr.params, fun q hq => ?_⟩
  exact traps_of_exn rfl (by rw [if_neg hr.mode_ne, if_neg hq, jumpAddress_exn h, Res.bind_exn]) hr.params

/-! ## Instructions with two operands -/

/-- The source is read first where it raises: register mode, the source of a form of R85, does not (R84). -/
theorem sourceThenLoc_source_exn {α : Type} {n : Size} {read : State → Res α} {src dst : Operand} {s u : State}
    {e : Exn} (hm : src.mode ≠ .register) (h : read s = .exn e u) : sourceThenLoc n read src dst s = .exn e u := by
  have hf : sameRegisterForm src dst = false := by simp [sameRegisterForm, hm]
  rw [sourceThenLoc, hf, h]; rfl

/-- The destination is resolved after the source is read (R84). -/
theorem sourceThenLoc_of_read {α : Type} {n : Size} {read : State → Res α} {src dst : Operand} {s t : State} {v : α}
    (hf : sameRegisterForm src dst = false) (h : read s = .ok v t) :
    sourceThenLoc n read src dst s = (resolve n dst t).bind fun l u => .ok (v, l) u := by
  rw [sourceThenLoc, hf, h]; rfl

/-- The two places where a word instruction with two operands raises: resolving and reading the source and resolving the
destination, or the access of the destination. -/
theorem onWords_traps {src dst : Operand} {s u : State} {e : Exn} (hp : u.params = s.params)
    (h : sourceDestWord src dst s = .exn e u ∨
      ∃ v a t, sourceDestWord src dst s = .ok (v, .mem a) t ∧ readWord a t = .exn e u ∧ ∀ w,
        writeWord a w t = .exn e u) :
    ∀ i ∈ Instr.onWords src dst, Traps i s e u := by
  have combine {i : Instr} {f : Word → Word → Flags → Word × Flags} (hi : exec i s = finish (combineWord f src dst s)) :
      Traps i s e u := by
    refine traps_of_exn hi ?_ hp
    obtain h | ⟨v, a, t, h, hread, -⟩ := h
    · rw [combineWord, h, Res.bind_exn]
    · rw [combineWord, h, Res.bind_ok, readLocWord, hread, Res.bind_exn]
  have compare {i : Instr} {f : Word → Word → Flags → Flags} (hi : exec i s = finish (compareWord f src dst s)) :
      Traps i s e u := by
    refine traps_of_exn hi ?_ hp
    obtain h | ⟨v, a, t, h, hread, -⟩ := h
    · rw [compareWord, h, Res.bind_exn]
    · rw [compareWord, h, Res.bind_ok, readLocWord, hread, Res.bind_exn]
  have move : Traps (.mov src dst) s e u := by
    refine traps_of_exn rfl ?_ hp
    obtain h | ⟨v, a, t, h, -, hwrite⟩ := h
    · rw [h, Res.bind_exn]
    · rw [h, Res.bind_ok, writeLocWord, hwrite, Res.bind_exn]
  simp only [Instr.onWords, List.forall_mem_cons]
  exact ⟨move, compare rfl, compare rfl, combine rfl, combine rfl, combine rfl, combine rfl, by simp⟩

/-- As `onWords_traps` for bytes. -/
theorem onBytes_traps {src dst : Operand} {s u : State} {e : Exn} (hp : u.params = s.params)
    (h : sourceDestByte src dst s = .exn e u ∨
      ∃ v a t, sourceDestByte src dst s = .ok (v, .mem a) t ∧ readByte a t = .exn e u ∧ ∀ b,
        writeByte a b t = .exn e u) :
    ∀ i ∈ Instr.onBytes src dst, Traps i s e u := by
  have combine {i : Instr} {f : Byte → Byte → Flags → Byte × Flags} (hi : exec i s = finish (combineByte f src dst s)) :
      Traps i s e u := by
    refine traps_of_exn hi ?_ hp
    obtain h | ⟨v, a, t, h, hread, -⟩ := h
    · rw [combineByte, h, Res.bind_exn]
    · rw [combineByte, h, Res.bind_ok, readLocByte, hread, Res.bind_exn]
  have compare {i : Instr} {f : Byte → Byte → Flags → Flags} (hi : exec i s = finish (compareByte f src dst s)) :
      Traps i s e u := by
    refine traps_of_exn hi ?_ hp
    obtain h | ⟨v, a, t, h, hread, -⟩ := h
    · rw [compareByte, h, Res.bind_exn]
    · rw [compareByte, h, Res.bind_ok, readLocByte, hread, Res.bind_exn]
  have move : Traps (.movb src dst) s e u := by
    refine traps_of_exn rfl ?_ hp
    obtain h | ⟨v, a, t, h, -, hwrite⟩ := h
    · rw [h, Res.bind_exn]
    · rw [h, Res.bind_ok, writeLocSext, hwrite, Res.bind_exn]
  simp only [Instr.onBytes, List.forall_mem_cons]
  exact ⟨move, compare rfl, compare rfl, combine rfl, combine rfl, by simp⟩

theorem sourceDestWord_dst_exn {src dst : Operand} {s t u : State} {e : Exn} {v : Word}
    (hread : readOperandWord src s = .ok v t) (hf : sameRegisterForm src dst = false)
    (h : OperandRaises .word dst t e u) :
    sourceDestWord src dst s = .exn e u ∨
      ∃ v a t, sourceDestWord src dst s = .ok (v, .mem a) t ∧ readWord a t = .exn e u ∧ ∀ w,
        writeWord a w t = .exn e u := by
  have hsd : sourceDestWord src dst s = _ := sourceThenLoc_of_read hf hread
  obtain h | ⟨a, t', hl, hra, hwa⟩ := h.word_cases
  · exact .inl (by rw [hsd, h, Res.bind_exn])
  · exact .inr ⟨v, a, t', by rw [hsd, hl, Res.bind_ok], hra, hwa⟩

theorem sourceDestByte_dst_exn {src dst : Operand} {s t u : State} {e : Exn} {v : Byte}
    (hread : readOperandByte src s = .ok v t) (hf : sameRegisterForm src dst = false)
    (h : OperandRaises .byte dst t e u) :
    sourceDestByte src dst s = .exn e u ∨
      ∃ v a t, sourceDestByte src dst s = .ok (v, .mem a) t ∧ readByte a t = .exn e u ∧ ∀ b,
        writeByte a b t = .exn e u := by
  have hsd : sourceDestByte src dst s = _ := sourceThenLoc_of_read hf hread
  obtain h | ⟨a, t', hl, hra, hwa⟩ := h.byte_cases
  · exact .inl (by rw [hsd, h, Res.bind_exn])
  · exact .inr ⟨v, a, t', by rw [hsd, hl, Res.bind_ok], hra, hwa⟩

/-- Settles O22: a field raises where its pointer or following word does, and each shape of instruction raises where its
operand does. -/
theorem oddOperandTraps : Obligations.OddOperandTraps := by
  intro s src dst
  refine ⟨fun n r e u => ⟨fun h => ?_, fun h => ?_, fun h => ?_, fun x t hx h => ?_⟩,
    fun e u h => ⟨onWord_traps h, eis_traps h⟩, fun e u h => onByte_traps h, fun e u h => jumps_trap h,
    fun e u h => ?_, fun e u h => ?_, fun v t e u hread hf h => ?_, fun v t e u hread hf h => ?_⟩
  · rw [resolve_autoIncDef_eq, h, Res.bind_exn]
  · rw [resolve_autoDecDef_eq, h, Res.bind_exn]
  · rw [resolve_index_eq, resolve_indexDef_eq, fetch, h]; exact ⟨rfl, rfl⟩
  · rw [resolve_indexDef_eq, hx, Res.bind_ok, h, Res.bind_exn]
  · exact onWords_traps h.params (.inl (sourceThenLoc_source_exn h.mode_ne (readOperandWord_exn h)))
  · exact onBytes_traps h.params (.inl (sourceThenLoc_source_exn h.mode_ne (readOperandByte_exn h)))
  · exact onWords_traps (h.params.trans (readOperandWord_moved hread).1.params) (sourceDestWord_dst_exn hread hf h)
  · exact onBytes_traps (h.params.trans (readOperandByte_moved hread).1.params) (sourceDestByte_dst_exn hread hf h)

end Sys2Proof.Machine
end

section
/-! The double-operand and single-operand instructions: from the function of an instruction to its outcome (R90 to R103,
R130 to R160). -/

namespace Sys2Proof.Machine

/-! ## The outcome of each shape -/

section Shapes

variable {i : Instr} {s s1 s2 : State} (hi : s.Inv)
include hi

/-- A double-operand word instruction stores the result of its function, and sets its flags. -/
theorem combineWord_outcome {f : Word → Word → Flags → Word × Flags} {src dst : Operand} {l : Loc} {v d r : Word}
    {fl : Flags} (h1 : sourceDestWord src dst s = .ok (v, l) s1) (h2 : readLocWord l s1 = .ok d s2)
    (h3 : WordReady s2 l) (hexec : exec i s = finish (combineWord f src dst s)) (hf : f v d s.flags = (r, fl)) :
    WordOutcome i s s2 [src, dst] l r fl := by
  obtain ⟨hmoved, hregs⟩ := sourceDestWord_moved h1
  have hd := readLocWord_drawn h2
  refine wordOutcome_of_next hi (hmoved.trans hd.moved) (fun q h7 hs => ?_) h3 ?_
  · rw [hd.reg, hregs q h7 (hs src (by simp)) (hs dst (by simp))]
  · rw [hexec, combineWord_of_ready h1 h2 h3, hf, finish_ok]

theorem combineByte_outcome {f : Byte → Byte → Flags → Byte × Flags} {src dst : Operand} {l : Loc} {v d r : Byte}
    {fl : Flags} (h1 : sourceDestByte src dst s = .ok (v, l) s1) (h2 : readLocByte l s1 = .ok d s2)
    (h3 : ByteReady s2 l) (hexec : exec i s = finish (combineByte f src dst s)) (hf : f v d s.flags = (r, fl)) :
    ByteOutcome i s s2 [src, dst] l r (keptHighByte s2 l r) fl := by
  obtain ⟨hmoved, hregs⟩ := sourceDestByte_moved h1
  have hd := readLocByte_drawn h2
  refine byteOutcome_of_next hi (hmoved.trans hd.moved) (fun q h7 hs => ?_) ?_
  · rw [hd.reg, hregs q h7 (hs src (by simp)) (hs dst (by simp))]
  · rw [hexec, combineByte_of_ready h1 h2 h3, hf, finish_ok]

theorem compareWord_outcome {f : Word → Word → Flags → Flags} {src dst : Operand} {l : Loc} {v d : Word} {fl : Flags}
    (h1 : sourceDestWord src dst s = .ok (v, l) s1) (h2 : readLocWord l s1 = .ok d s2)
    (hexec : exec i s = finish (compareWord f src dst s)) (hf : f v d s.flags = fl) :
    FlagOutcome i s s2 [src, dst] fl := by
  obtain ⟨hmoved, hregs⟩ := sourceDestWord_moved h1
  have hd := readLocWord_drawn h2
  refine flagOutcome_of_next hi (hmoved.trans hd.moved) (fun q h7 hs => ?_) ?_
  · rw [hd.reg, hregs q h7 (hs src (by simp)) (hs dst (by simp))]
  · rw [hexec, compareWord_of_ready h1 h2, hf, finish_ok]

theorem compareByte_outcome {f : Byte → Byte → Flags → Flags} {src dst : Operand} {l : Loc} {v d : Byte} {fl : Flags}
    (h1 : sourceDestByte src dst s = .ok (v, l) s1) (h2 : readLocByte l s1 = .ok d s2)
    (hexec : exec i s = finish (compareByte f src dst s)) (hf : f v d s.flags = fl) :
    FlagOutcome i s s2 [src, dst] fl := by
  obtain ⟨hmoved, hregs⟩ := sourceDestByte_moved h1
  have hd := readLocByte_drawn h2
  refine flagOutcome_of_next hi (hmoved.trans hd.moved) (fun q h7 hs => ?_) ?_
  · rw [hd.reg, hregs q h7 (hs src (by simp)) (hs dst (by simp))]
  · rw [hexec, compareByte_of_ready h1 h2, hf, finish_ok]

/-- A read-modify-write word instruction stores the result of its function, and sets its flags (R155). -/
theorem modifyWord_outcome {f : Word → Flags → Word × Flags} {dst : Operand} {l : Loc} {d r : Word} {fl : Flags}
    (h1 : resolve .word dst s = .ok l s1) (h2 : readLocWord l s1 = .ok d s2) (h3 : WordReady s2 l)
    (hexec : exec i s = finish (modifyWord f dst s)) (hf : f d s.flags = (r, fl)) :
    WordOutcome i s s2 [dst] l r fl := by
  obtain ⟨hmoved, hregs⟩ := resolve_moved h1
  have hd := readLocWord_drawn h2
  refine wordOutcome_of_next hi (hmoved.trans hd.moved) (fun q h7 hs => ?_) h3 ?_
  · rw [hd.reg, hregs q h7 (hs dst (by simp))]
  · rw [hexec, modifyWord_of_ready h1 h2 h3, hf, finish_ok]

theorem modifyByte_outcome {f : Byte → Flags → Byte × Flags} {dst : Operand} {l : Loc} {d r : Byte} {fl : Flags}
    (h1 : resolve .byte dst s = .ok l s1) (h2 : readLocByte l s1 = .ok d s2) (h3 : ByteReady s2 l)
    (hexec : exec i s = finish (modifyByte f dst s)) (hf : f d s.flags = (r, fl)) :
    ByteOutcome i s s2 [dst] l r (keptHighByte s2 l r) fl := by
  obtain ⟨hmoved, hregs⟩ := resolve_moved h1
  have hd := readLocByte_drawn h2
  refine byteOutcome_of_next hi (hmoved.trans hd.moved) (fun q h7 hs => ?_) ?_
  · rw [hd.reg, hregs q h7 (hs dst (by simp))]
  · rw [hexec, modifyByte_of_ready h1 h2 h3, hf, finish_ok]

/-- A word instruction that writes its destination unread (R38). -/
theorem storeOperandWord_outcome {dst : Operand} {l : Loc} {v : Word} {fl : Flags} (h1 : resolve .word dst s = .ok l s1)
    (h3 : WordReady s1 l) (hexec : exec i s = finish (storeOperandWord v fl dst s)) :
    WordOutcome i s s1 [dst] l v fl := by
  obtain ⟨hmoved, hregs⟩ := resolve_moved h1
  refine wordOutcome_of_next hi hmoved (fun q h7 hs => hregs q h7 (hs dst (by simp))) h3 ?_
  rw [hexec, storeOperandWord_of_ready h1 h3, finish_ok]

theorem storeOperandByte_outcome {dst : Operand} {l : Loc} {v : Byte} {fl : Flags} (h1 : resolve .byte dst s = .ok l s1)
    (h3 : ByteReady s1 l) (hexec : exec i s = finish (storeOperandByte v fl dst s)) :
    ByteOutcome i s s1 [dst] l v (keptHighByte s1 l v) fl := by
  obtain ⟨hmoved, hregs⟩ := resolve_moved h1
  refine byteOutcome_of_next hi hmoved (fun q h7 hs => hregs q h7 (hs dst (by simp))) ?_
  rw [hexec, storeOperandByte_of_ready h1 h3, finish_ok]

end Shapes

/-! ## Double-operand instructions -/

/-- Settles O24: the shape's outcome with each function evaluated. -/
theorem doubleWordResults : Obligations.DoubleWordResults := by
  intro s s1 s2 src dst v d l hi h1 h2 h3
  exact ⟨combineWord_outcome hi h1 h2 h3 rfl rfl, combineWord_outcome hi h1 h2 h3 rfl rfl,
    combineWord_outcome hi h1 h2 h3 rfl rfl, combineWord_outcome hi h1 h2 h3 rfl rfl⟩

/-- Settles O25: as O24 for bytes. -/
theorem doubleByteResults : Obligations.DoubleByteResults := by
  intro s s1 s2 src dst v d l hi h1 h2 h3
  exact ⟨combineByte_outcome hi h1 h2 h3 rfl rfl, combineByte_outcome hi h1 h2 h3 rfl rfl⟩

/-- Settles O26: the comparing shape with each function of the flags. -/
theorem compareResults : Obligations.CompareResults :=
  ⟨fun _ _ _ _ _ _ _ _ hi h1 h2 => ⟨compareWord_outcome hi h1 h2 rfl rfl, compareWord_outcome hi h1 h2 rfl rfl⟩,
    fun _ _ _ _ _ _ _ _ hi h1 h2 => ⟨compareByte_outcome hi h1 h2 rfl rfl, compareByte_outcome hi h1 h2 rfl rfl⟩⟩

theorem flagC_congr {s t : State} (h : t.ps = s.ps) : t.flagC = s.flagC := by rw [State.flagC, h]; rfl

/-- Settles O23: MOV writes its destination unread; MOVB sign-extends into a register. -/
theorem moveResults : Obligations.MoveResults := by
  refine ⟨fun s s1 src dst v l hi h1 h3 => ?word, fun s s1 src dst v l hi h1 h3 => ?byte⟩
  case word =>
    obtain ⟨hmoved, hregs⟩ := sourceDestWord_moved h1
    have hc : (s1.putLocWord l v).flagC = s.flagC := flagC_congr (by rw [State.putLocWord_ps, hmoved.ps])
    refine wordOutcome_of_next hi hmoved (fun q h7 hs => hregs q h7 (hs src (by simp)) (hs dst (by simp))) h3 ?_
    simp only [exec, execMov, h1, Res.bind_ok, writeLocWord_eq_ok.mpr ⟨h3, rfl⟩, finish_ok, hc]
    rfl
  case byte =>
    obtain ⟨hmoved, hregs⟩ := sourceDestByte_moved h1
    have hc : (s1.putLocByte l v (sextByte v)).flagC = s.flagC :=
      flagC_congr (by rw [State.putLocByte_ps, hmoved.ps])
    refine byteOutcome_of_next hi hmoved (fun q h7 hs => hregs q h7 (hs src (by simp)) (hs dst (by simp))) ?_
    simp only [exec, execMovb, h1, Res.bind_ok, writeLocSext_eq_ok.mpr ⟨h3, rfl⟩, finish_ok, hc]
    rfl

/-! ## Single-operand instructions -/

theorem negOp_eq {w : Nat} (d : BitVec w) (f : Flags) :
    negOp d f = (-d, ⟨(-d).msb, decide (-d = 0#w), decide (-d = BitVec.intMin w), decide (-d ≠ 0#w)⟩) := by
  simp only [negOp, minSigned, BitVec.zero_sub, beq_eq_decide, bne, decide_not]

/-- The carry as an operand (R141, R143). -/
def carryIn (w : Nat) (c : Bool) : BitVec w := if c then 1#w else 0#w

theorem adcOp_eq {w : Nat} (d : BitVec w) (f : Flags) :
    adcOp d f = (d + carryIn w f.c, ⟨(d + carryIn w f.c).msb, decide (d + carryIn w f.c = 0#w),
      decide (d = BitVec.intMax w ∧ f.c = true), decide (d = BitVec.allOnes w ∧ f.c = true)⟩) := by
  cases hc : f.c <;> simp [adcOp, carryIn, hc, maxSigned, beq_eq_decide]

theorem sbcOp_eq {w : Nat} (d : BitVec w) (f : Flags) :
    sbcOp d f = (d - carryIn w f.c, ⟨(d - carryIn w f.c).msb, decide (d - carryIn w f.c = 0#w),
      decide (d = BitVec.intMin w ∧ f.c = true), decide (d = 0#w ∧ f.c = true)⟩) := by
  cases hc : f.c <;> simp [sbcOp, carryIn, hc, minSigned, beq_eq_decide]

/-- Settles O27: the read-modify-write shape; NEG, ADC and SBC by their result and flags written out. -/
theorem wordArithmeticResults : Obligations.WordArithmeticResults := by
  intro s s1 s2 dst d l hi h1 h2 h3 c
  exact ⟨modifyWord_outcome hi h1 h2 h3 rfl rfl, modifyWord_outcome hi h1 h2 h3 rfl rfl,
    modifyWord_outcome hi h1 h2 h3 rfl rfl,
    modifyWord_outcome hi h1 h2 h3 rfl (by rw [negOp_eq, ← BitVec.neg_eq_not_add]; rfl),
    modifyWord_outcome hi h1 h2 h3 rfl (adcOp_eq d _), modifyWord_outcome hi h1 h2 h3 rfl (sbcOp_eq d _)⟩

/-- Settles O28: as O27 for bytes. -/
theorem byteArithmeticResults : Obligations.ByteArithmeticResults := by
  intro s s1 s2 dst d l hi h1 h2 h3 c
  exact ⟨modifyByte_outcome hi h1 h2 h3 rfl rfl, modifyByte_outcome hi h1 h2 h3 rfl rfl,
    modifyByte_outcome hi h1 h2 h3 rfl rfl, modifyByte_outcome hi h1 h2 h3 rfl (negOp_eq d _),
    modifyByte_outcome hi h1 h2 h3 rfl (adcOp_eq d _), modifyByte_outcome hi h1 h2 h3 rfl (sbcOp_eq d _)⟩

/-- Settles O31: the shape that writes its destination unread. -/
theorem clearAndSignExtendResults : Obligations.ClearAndSignExtendResults :=
  ⟨fun _ _ _ _ hi h1 h3 => ⟨storeOperandWord_outcome hi h1 h3 rfl, storeOperandWord_outcome hi h1 h3 rfl⟩,
    fun _ _ _ _ hi h1 h3 => storeOperandByte_outcome hi h1 h3 rfl⟩

/-- Settles O32: reading the operand moves what its field steps, and only the flags are written. -/
theorem testResults : Obligations.TestResults := by
  refine ⟨fun s s1 s2 dst d l hi h1 h2 => ?word, fun s s1 s2 dst d l hi h1 h2 => ?byte⟩
  case word =>
    have hread : readOperandWord dst s = .ok d s2 := by rw [readOperandWord, h1, Res.bind_ok, h2]
    obtain ⟨hmoved, hregs⟩ := readOperandWord_moved hread
    refine flagOutcome_of_next hi hmoved (fun q h7 hs => hregs q h7 (hs dst (by simp))) ?_
    rw [exec, execTst, hread]; rfl
  case byte =>
    have hread : readOperandByte dst s = .ok d s2 := by rw [readOperandByte, h1, Res.bind_ok, h2]
    obtain ⟨hmoved, hregs⟩ := readOperandByte_moved hread
    refine flagOutcome_of_next hi hmoved (fun q h7 hs => hregs q h7 (hs dst (by simp))) ?_
    rw [exec, execTstb, hread]; rfl

/-! ## The status byte -/

@[simp] theorem lowByte_and (a b : Word) : lowByte (a &&& b) = lowByte a &&& lowByte b := BitVec.extractLsb'_and

@[simp] theorem lowByte_or (a b : Word) : lowByte (a ||| b) = lowByte a ||| lowByte b := BitVec.extractLsb'_or

@[simp] theorem highByte_and (a b : Word) : highByte (a &&& b) = highByte a &&& highByte b := BitVec.extractLsb'_and

@[simp] theorem highByte_or (a b : Word) : highByte (a ||| b) = highByte a ||| highByte b := BitVec.extractLsb'_or

@[simp] theorem lowByte_setWidth (b : Byte) : lowByte (b.setWidth 16) = b := by
  apply BitVec.eq_of_toNat_eq
  simp [lowByte]
  omega

@[simp] theorem highByte_setWidth (b : Byte) : highByte (b.setWidth 16) = 0#8 := by
  apply BitVec.eq_of_toNat_eq
  rw [highByte, toNat_extract_div, BitVec.toNat_setWidth, BitVec.toNat_zero]
  omega

/-- The PS that MTPS writes: the status byte but T, the rest as it was, under the mask (R158). -/
def loadedPs (p m : Word) (b : Byte) : Word := ((p &&& 0o177420#16) ||| (b.setWidth 16 &&& 0o357#16)) &&& m

theorem lowByte_loadedPs (p m : Word) (b : Byte) :
    lowByte (loadedPs p m b) = ((b &&& 0o357#8) ||| (lowByte p &&& 0o20#8)) &&& lowByte m := by
  rw [loadedPs, lowByte_and, lowByte_or, lowByte_and, lowByte_and, lowByte_setWidth, BitVec.or_comm]
  rfl

theorem highByte_loadedPs {p m : Word} (b : Byte) (h : p &&& ~~~m = 0#16) :
    highByte (loadedPs p m b) = highByte p := by
  have hall : highByte p &&& highByte 0o177420#16 = highByte p := BitVec.and_allOnes
  have hnone : highByte (b.setWidth 16) &&& highByte 0o357#16 = 0#8 := by rw [highByte_setWidth]; rfl
  rw [loadedPs, highByte_and, highByte_or, highByte_and, highByte_and, hall, hnone, BitVec.or_zero, ← highByte_and,
    masked_of_clear h]

/-- The bits of the PS are those of its bytes. -/
theorem getLsbD_lowByte (w : Word) {k : Nat} (h : k < 8) : (lowByte w).getLsbD k = w.getLsbD k := by
  simp [lowByte, h]

theorem extract_lowByte_priority (w : Word) : (lowByte w).extractLsb' 5 3 = w.extractLsb' 5 3 := by
  apply BitVec.eq_of_toNat_eq
  rw [toNat_extract_div, lowByte, toNat_extract_div, toNat_extract_div]
  omega

/-- MTPS loads as much of the priority as the mask holds (R158). -/
theorem priority_loadedPs (p m : Word) (b : Byte) :
    (loadedPs p m b).extractLsb' 5 3 = (b &&& lowByte m).extractLsb' 5 3 := by
  have hb : b.extractLsb' 5 3 &&& (0o357#8).extractLsb' 5 3 = b.extractLsb' 5 3 := BitVec.and_allOnes
  have hp : (lowByte p).extractLsb' 5 3 &&& (0o20#8).extractLsb' 5 3 = 0#3 := BitVec.and_zero
  rw [← extract_lowByte_priority, lowByte_loadedPs]
  simp only [BitVec.extractLsb'_and, BitVec.extractLsb'_or, hb, hp, BitVec.or_zero]

/-- The mask holds the condition codes and T (R16). -/
theorem getLsbD_mask {m : Word} (h : m &&& 0o37#16 = 0o37#16) {k : Nat} (hk : k < 5) : m.getLsbD k = true := by
  have hbit := congrArg (fun x : Word => x.getLsbD k) h
  interval_cases k <;> simpa using hbit

/-- Settles O33: bit by bit, by what MTPS keeps of the PS under the mask. -/
theorem statusByteMoves : Obligations.StatusByteMoves := by
  refine ⟨fun s s1 s2 src b l hi h1 h2 => ?mtps, fun s s1 dst l hi h1 h3 => ?mfps⟩
  case mtps =>
    intro new
    have hread : readOperandByte src s = .ok b s2 := by rw [readOperandByte, h1, Res.bind_ok, h2]
    obtain ⟨hmoved, hregs⟩ := readOperandByte_moved hread
    have ⟨hparams, _, _, hmasked, _⟩ := hi
    have hps : (s2.writePs ((s2.ps &&& 0o177420#16) ||| (b.setWidth 16 &&& 0o357#16))).ps =
        loadedPs s.ps s.params.psMask b := by rw [State.writePs_ps, hmoved.ps, hmoved.params]; rfl
    have hbit {k : Nat} (hk : k < 5) : (loadedPs s.ps s.params.psMask b).getLsbD k =
        ((b &&& 0o357#8) ||| (lowByte s.ps &&& 0o20#8)).getLsbD k := by
      rw [← getLsbD_lowByte _ (by omega), lowByte_loadedPs, BitVec.getLsbD_and, getLsbD_lowByte _ (by omega),
        getLsbD_mask (Params.wf_mask hparams) hk, Bool.and_true]
    refine ⟨s2.writePs ((s2.ps &&& 0o177420#16) ||| (b.setWidth 16 &&& 0o357#16)), by rw [exec, execMtps, hread]; rfl,
      ?low, ?flags, ?priority, ?flagT, ?high, hmoved.memory, fun q => State.reg_writePs _ _ _,
      fun r h7 _ hs => hregs r h7 (hs src (by simp)), hmoved.sameControl⟩
    case low => rw [hps, lowByte_loadedPs]
    case high => rw [hps, highByte_loadedPs b hmasked]
    case priority => rw [State.priority, hps, priority_loadedPs]
    case flagT => rw [State.flagT, hps, hbit (by decide), State.flagT, ← getLsbD_lowByte s.ps (by decide)]; simp
    case flags =>
      simp only [State.flags, State.flagN, State.flagZ, State.flagV, State.flagC, hps]
      rw [hbit (by decide), hbit (by decide), hbit (by decide), hbit (by decide)]
      simp
  case mfps =>
    obtain ⟨hmoved, hregs⟩ := resolve_moved h1
    have hc : (s1.putLocByte l (lowByte s.ps) (sextByte (lowByte s.ps))).flagC = s.flagC :=
      flagC_congr (by rw [State.putLocByte_ps, hmoved.ps])
    refine byteOutcome_of_next hi hmoved (fun q h7 hs => hregs q h7 (hs dst (by simp))) ?_
    simp only [exec, execMfps, h1, Res.bind_ok, writeLocSext_eq_ok.mpr ⟨h3, rfl⟩, finish_ok, hc]
    rw [resultFlags, show (lowByte s.ps).msb = s.ps.getLsbD 7 from getLsbD_lowByte _ (by decide)]
    rfl

end Sys2Proof.Machine
end

section
/-! Rotates and shifts, and the comparison that the branches read (R147 to R156, R116, R117, R187). -/

namespace Sys2Proof.Machine

/-! ## The bits of a shifted operand -/

theorem getLsbD_shiftRightIn {w : Nat} (b : Bool) (d : BitVec w) (i : Nat) :
    (shiftRightIn b d).getLsbD i = if i + 1 = w then b else d.getLsbD (i + 1) := by
  have hin : (if b then minSigned w else 0#w).getLsbD i = (decide (i + 1 = w) && b) := by
    cases b <;> simp [minSigned, BitVec.getLsbD_intMin, eq_comm]
  rw [shiftRightIn, BitVec.getLsbD_or, hin, BitVec.getLsbD_ushiftRight, Nat.add_comm]
  split_ifs with h
  · rw [h, BitVec.getLsbD_of_ge d w (Nat.le_refl w)]; simp
  · simp [h]

theorem getLsbD_shiftLeftIn {w : Nat} (b : Bool) (d : BitVec w) {i : Nat} (hi : i < w) :
    (shiftLeftIn b d).getLsbD i = if i = 0 then b else d.getLsbD (i - 1) := by
  have hin : (if b then 1#w else 0#w).getLsbD i = (decide (i = 0) && b) := by
    cases b <;> simp [BitVec.getLsbD_one, show 0 < w by omega]
  rw [shiftLeftIn, BitVec.getLsbD_or, hin, BitVec.getLsbD_shiftLeft]
  split_ifs with h
  · simp [h]
  · simp [h, hi, show ¬ i < 1 by omega]

theorem shiftRightIn_eq_append {n : Nat} (b : Bool) (d : BitVec (1 + n)) :
    shiftRightIn b d = BitVec.ofBool b ++ d.extractLsb' 1 n := by
  apply BitVec.eq_of_getLsbD_eq
  intro i hi
  rw [getLsbD_shiftRightIn, BitVec.getLsbD_append, BitVec.getLsbD_extractLsb']
  by_cases h : i < n
  · rw [if_neg (by omega), if_pos h]
    simp [h, Nat.add_comm]
  · obtain rfl : i = n := by omega
    simp [Nat.add_comm]

theorem shiftLeftIn_eq_append {n : Nat} (b : Bool) (d : BitVec (n + 1)) :
    shiftLeftIn b d = d.extractLsb' 0 n ++ BitVec.ofBool b := by
  apply BitVec.eq_of_getLsbD_eq
  intro i hi
  rw [getLsbD_shiftLeftIn b d hi, BitVec.getLsbD_append, BitVec.getLsbD_extractLsb']
  by_cases h : i = 0
  · simp [h]
  · simp [h, show ¬ i < 1 by omega, show i - 1 < n by omega]

theorem msb_highByte (d : Word) : (highByte d).msb = d.getLsbD 15 := by
  simp [highByte, BitVec.msb_eq_getLsbD_last]

/-- Settles O29: the bits of each result are those of its append form. -/
theorem wordShiftResults : Obligations.WordShiftResults := by
  intro s s1 s2 dst d l hi h1 h2 h3 c shifted right left
  refine ⟨modifyWord_outcome hi h1 h2 h3 rfl ?swab, modifyWord_outcome hi h1 h2 h3 rfl ?ror,
    modifyWord_outcome hi h1 h2 h3 rfl ?rol, modifyWord_outcome hi h1 h2 h3 rfl ?asr,
    modifyWord_outcome hi h1 h2 h3 rfl ?asl⟩
  case swab => rw [swabOp, msb_highByte]; rfl
  case ror => rw [rorOp, shiftRightIn_eq_append (n := 15)]; rfl
  case rol => rw [rolOp, shiftLeftIn_eq_append (n := 15)]; rfl
  case asr => rw [asrOp, shiftRightIn_eq_append (n := 15)]; rfl
  case asl => rw [aslOp, shiftLeftIn_eq_append (n := 15)]; rfl

/-- Settles O30: as O29 for bytes. -/
theorem byteShiftResults : Obligations.ByteShiftResults := by
  intro s s1 s2 dst d l hi h1 h2 h3 c shifted right left
  refine ⟨modifyByte_outcome hi h1 h2 h3 rfl ?ror, modifyByte_outcome hi h1 h2 h3 rfl ?rol,
    modifyByte_outcome hi h1 h2 h3 rfl ?asr, modifyByte_outcome hi h1 h2 h3 rfl ?asl⟩
  case ror => rw [rorOp, shiftRightIn_eq_append (n := 7)]; rfl
  case rol => rw [rolOp, shiftLeftIn_eq_append (n := 7)]; rfl
  case asr => rw [asrOp, shiftRightIn_eq_append (n := 7)]; rfl
  case asl => rw [aslOp, shiftLeftIn_eq_append (n := 7)]; rfl

/-! ## Rotation through C -/

/-- The operand and C as one ring of `w + 1` bits, C above the operand's left-most bit. -/
def ringBit {w : Nat} (p : BitVec w × Flags) (i : Nat) : Bool := if i = w then p.2.c else p.1.getLsbD i

/-- Two pairs with the same ring have the same operand and C. -/
theorem eq_of_ringBit {w : Nat} {p q : BitVec w × Flags} (h : ∀ i ≤ w, ringBit p i = ringBit q i) :
    p.1 = q.1 ∧ p.2.c = q.2.c := by
  refine ⟨BitVec.eq_of_getLsbD_eq fun i hi => ?_, by simpa [ringBit] using h w (Nat.le_refl w)⟩
  simpa [ringBit, hi.ne] using h i hi.le

theorem ringBit_rorOp {w : Nat} (p : BitVec w × Flags) {i : Nat} (hi : i ≤ w) (hw : 0 < w) :
    ringBit (rorOp p.1 p.2) i = ringBit p ((i + 1) % (w + 1)) := by
  obtain rfl | hlt := hi.eq_or_lt
  · simp [ringBit, rorOp, shiftFlags, hw.ne]
  · rw [Nat.mod_eq_of_lt (by omega)]
    simp only [ringBit, rorOp, if_neg hlt.ne, getLsbD_shiftRightIn]

theorem ringBit_rolOp {w : Nat} (p : BitVec w × Flags) {i : Nat} (hi : i ≤ w) (hw : 0 < w) :
    ringBit (rolOp p.1 p.2) i = ringBit p ((i + w) % (w + 1)) := by
  obtain rfl | hlt := hi.eq_or_lt
  · have hmod : (i + i) % (i + 1) = i - 1 := by
      rw [show i + i = i - 1 + (i + 1) by omega, Nat.add_mod_right, Nat.mod_eq_of_lt (by omega)]
    simp [ringBit, rolOp, shiftFlags, hmod, BitVec.msb_eq_getLsbD_last, show ¬ i - 1 = i by omega]
  · obtain rfl | hpos := i.eq_zero_or_pos
    · rw [Nat.zero_add, Nat.mod_eq_of_lt (by omega)]
      simp [ringBit, rolOp, hw.ne, getLsbD_shiftLeftIn _ _ hw]
    · have hmod : (i + w) % (w + 1) = i - 1 := by
        rw [show i + w = i - 1 + (w + 1) by omega, Nat.add_mod_right, Nat.mod_eq_of_lt (by omega)]
      simp only [ringBit, rolOp, if_neg hlt.ne, getLsbD_shiftLeftIn _ _ hlt, if_neg hpos.ne', hmod,
        if_neg (show ¬ i - 1 = w by omega)]

/-- A step that turns the ring by `k` places, `w + 1` times, brings it back. -/
theorem ringBit_iterate {w k : Nat} {f : BitVec w × Flags → BitVec w × Flags}
    (hf : ∀ p, ∀ i ≤ w, ringBit (f p) i = ringBit p ((i + k) % (w + 1))) (p : BitVec w × Flags) :
    (f^[w + 1] p).1 = p.1 ∧ (f^[w + 1] p).2.c = p.2.c := by
  have turned (n : Nat) : ∀ i ≤ w, ringBit (f^[n] p) i = ringBit p ((i + n * k) % (w + 1)) := by
    induction n with
    | zero => intro i hi; rw [Nat.zero_mul, Nat.add_zero, Nat.mod_eq_of_lt (by omega)]; rfl
    | succ n ih =>
      intro i hi
      have hlt := Nat.mod_lt (i + k) (show 0 < w + 1 by omega)
      rw [Function.iterate_succ_apply', hf _ i hi, ih _ (by omega), Nat.mod_add_mod, Nat.succ_mul, Nat.add_right_comm,
        Nat.add_assoc]
  refine eq_of_ringBit fun i hi => ?_
  rw [turned _ i hi, Nat.add_mul_mod_self_left, Nat.mod_eq_of_lt (by omega)]

/-- Rotating as many times as the ring has bits restores the operand and C (R156). -/
theorem rotate_iterate {w : Nat} (hw : 0 < w) (d : BitVec w) (f : Flags) :
    ((fun p => rorOp p.1 p.2)^[w + 1] (d, f)).1 = d ∧ ((fun p => rorOp p.1 p.2)^[w + 1] (d, f)).2.c = f.c ∧
      ((fun p => rolOp p.1 p.2)^[w + 1] (d, f)).1 = d ∧ ((fun p => rolOp p.1 p.2)^[w + 1] (d, f)).2.c = f.c := by
  obtain ⟨hr, hrc⟩ := ringBit_iterate (fun p _ hi => ringBit_rorOp p hi hw) (d, f)
  obtain ⟨hl, hlc⟩ := ringBit_iterate (fun p _ hi => ringBit_rolOp p hi hw) (d, f)
  exact ⟨hr, hrc, hl, hlc⟩

/-! ## Shifts as arithmetic -/

/-- The sign bit duplicated is the arithmetic shift of the library (R151). -/
theorem shiftRightIn_msb {w : Nat} (d : BitVec w) : shiftRightIn d.msb d = d.sshiftRight 1 := by
  apply BitVec.eq_of_getLsbD_eq
  intro i hi
  rw [getLsbD_shiftRightIn, BitVec.getLsbD_sshiftRight]
  by_cases h : i + 1 = w
  · simp [h, show ¬ w ≤ i by omega, Nat.add_comm 1 i]
  · simp [h, show ¬ w ≤ i by omega, show i + 1 < w by omega, Nat.add_comm 1 i]

theorem asrOp_toInt {w : Nat} (d : BitVec w) (f : Flags) : (asrOp d f).1.toInt = d.toInt / 2 := by
  rw [asrOp, shiftRightIn_msb, BitVec.toInt_sshiftRight, Int.shiftRight_eq_div_pow]
  rfl

theorem shiftLeftIn_false {w : Nat} (d : BitVec w) : shiftLeftIn false d = d <<< 1 := by simp [shiftLeftIn]

theorem aslOp_eq_mul {w : Nat} (d : BitVec w) (f : Flags) : (aslOp d f).1 = 2#w * d := by
  apply BitVec.eq_of_toNat_eq
  simp [aslOp, shiftLeftIn_false, Nat.shiftLeft_eq, Nat.mul_comm]

/-- A signed value that `n + 1` bits do not hold. -/
abbrev Overflows (n : Nat) (x : Int) : Prop := x < -2 ^ n ∨ 2 ^ n ≤ x

/-- One place to the left: the sign bit changes exactly where doubling overflows, and else the value doubles. -/
theorem shiftLeft_one_sign {n : Nat} (u : BitVec (n + 1)) :
    (((u <<< 1).msb != u.msb) = true ↔ Overflows n (2 * u.toInt)) ∧
      (¬ Overflows n (2 * u.toInt) → (u <<< 1).toInt = 2 * u.toInt) := by
  have hu := u.isLt
  have hdouble : (u <<< 1).toNat = 2 * u.toNat % 2 ^ (n + 1) := by
    rw [BitVec.toNat_shiftLeft, Nat.shiftLeft_eq, Nat.mul_comm]
  have hpow : (2 : Int) ^ n = (2 ^ n : Nat) := by norm_cast
  simp only [BitVec.msb_eq_decide, BitVec.toInt_eq_toNat_cond, hdouble, Overflows, hpow, Nat.add_sub_cancel, pow_succ,
    bne_iff_ne, ne_eq, decide_eq_decide] at hu ⊢
  generalize u.toNat = m at hu ⊢
  generalize 2 ^ n = b at hu ⊢
  have hmod : 2 * m % (b * 2) = if m < b then 2 * m else 2 * m - b * 2 := by
    split_ifs with h
    · exact Nat.mod_eq_of_lt (by omega)
    · rw [Nat.mod_eq_sub_mod (by omega), Nat.mod_eq_of_lt (by omega)]
  rw [hmod]
  split_ifs <;> constructor <;> omega

theorem signChanges_succ {w : Nat} (v : BitVec w) (k : Nat) :
    signChanges v (k + 1) = (signChanges v k || ((v <<< (k + 1)).msb != (v <<< k).msb)) := by
  simp [signChanges, List.range_succ]

/-- The sign changes on the way exactly where the product by the power of 2 overflows (R116, R117). -/
theorem signChanges_iff {n : Nat} (v : BitVec (n + 1)) (k : Nat) :
    (signChanges v k = true ↔ Overflows n (v.toInt * 2 ^ k)) ∧
      (¬ Overflows n (v.toInt * 2 ^ k) → (v <<< k).toInt = v.toInt * 2 ^ k) := by
  induction k with
  | zero =>
    have := v.le_toInt
    have := v.toInt_lt
    simp only [Nat.add_sub_cancel] at *
    simp [signChanges, Overflows]
    omega
  | succ k ih =>
    obtain ⟨hv, hval⟩ := ih
    have hdouble : v.toInt * 2 ^ (k + 1) = 2 * (v.toInt * 2 ^ k) := by ring
    rw [signChanges_succ, Bool.or_eq_true, hv, hdouble]
    by_cases ho : Overflows n (v.toInt * 2 ^ k)
    · have hpos : (0 : Int) < 2 ^ n := by positivity
      have ho' : Overflows n (2 * (v.toInt * 2 ^ k)) := by unfold Overflows at *; omega
      exact ⟨iff_of_true (.inl ho) ho', fun h => absurd ho' h⟩
    · obtain ⟨hsign, hnext⟩ := shiftLeft_one_sign (v <<< k)
      rw [hval ho, ← BitVec.shiftLeft_add] at hsign hnext
      exact ⟨by rw [hsign]; simp [ho], hnext⟩

theorem aslOp_v {n : Nat} (d : BitVec (n + 1)) (f : Flags) : (aslOp d f).2.v = true ↔ Overflows n (2 * d.toInt) := by
  rw [← (shiftLeft_one_sign d).1, aslOp, shiftLeftIn_false]
  rfl

/-- Settles O35: a rotation is one turn of the ring, a shift left one doubling. -/
theorem shiftLaws : Obligations.ShiftLaws := by
  refine ⟨rotate_iterate (by decide), rotate_iterate (by decide), fun d f => ⟨asrOp_toInt d f, aslOp_eq_mul d f, ?_⟩,
    fun d f => ⟨asrOp_toInt d f, aslOp_eq_mul d f, ?_⟩, fun f => ⟨rfl, rfl, rfl, rfl⟩,
    fun d b f => ⟨rfl, rfl, rfl, rfl⟩⟩
  · rw [aslOp_v]; omega
  · rw [aslOp_v]; omega

/-! ## The flags of a comparison (R187) -/

/-- N and V of a comparison differ exactly where the source is the smaller signed number. -/
theorem cmpFlags_lt {w : Nat} (v d : BitVec (w + 1)) :
    ((cmpFlags v d).n ≠ (cmpFlags v d).v) ↔ v.toInt < d.toInt := by
  have hv := v.isLt
  have hd := d.isLt
  simp only [cmpFlags, BitVec.msb_eq_decide, BitVec.toInt_eq_toNat_cond, BitVec.toNat_sub, Nat.add_sub_cancel,
    pow_succ]
    at hv hd ⊢
  generalize v.toNat = a at hv ⊢
  generalize d.toNat = b at hd ⊢
  generalize 2 ^ w = m at hv hd ⊢
  rw [ne_eq, Bool.eq_iff_iff]
  simp only [Bool.and_eq_true, bne_iff_ne, beq_iff_eq, ne_eq, decide_eq_true_eq, decide_eq_decide]
  by_cases hab : a < b
  · rw [Nat.mod_eq_of_lt (show m * 2 - b + a < m * 2 by omega)]
    split_ifs <;> omega
  · rw [show m * 2 - b + a = a - b + m * 2 by omega, Nat.add_mod_right, Nat.mod_eq_of_lt (by omega)]
    split_ifs <;> omega

theorem cmpFlags_z {w : Nat} (v d : BitVec w) : (cmpFlags v d).z = true ↔ v = d := by
  simp [cmpFlags, BitVec.sub_eq_iff_eq_add]

theorem cmpFlags_c {w : Nat} (v d : BitVec w) : (cmpFlags v d).c = true ↔ v.toNat < d.toNat := by
  simp [cmpFlags]

/-- Settles O38: each branch tests what the flags of the comparison say of its operands. -/
theorem compareThenBranch : Obligations.CompareThenBranch := by
  intro s s1 s2 src dst v d l hi h1 h2
  obtain ⟨⟨t, hexec, -, -, -, hflags, -, -⟩, -⟩ := compareResults.1 s s1 s2 src dst v d l hi h1 h2
  refine ⟨t, hexec, fun off8 => ?_⟩
  intro taken
  have hflags : t.flags = cmpFlags v d := hflags
  have hlt := cmpFlags_lt v d
  have hz := cmpFlags_z v d
  have hc := cmpFlags_c v d
  rw [← hflags] at hlt hz hc
  change (t.flagN ≠ t.flagV) ↔ _ at hlt
  change t.flagZ = true ↔ _ at hz
  change t.flagC = true ↔ _ at hc
  have hltB : (t.flagN ^^ t.flagV) = true ↔ v.toInt < d.toInt := by rw [← hlt]; exact bne_iff_ne
  have hzInt : t.flagZ = true ↔ v.toInt = d.toInt := hz.trans BitVec.toInt_inj.symm
  have hzNat : t.flagZ = true ↔ v.toNat = d.toNat := hz.trans BitVec.toNat_inj.symm
  refine ⟨branchIf_eq_ite hz off8 t, branchIf_eq_ite ?bne off8 t, branchIf_eq_ite hltB off8 t,
    branchIf_eq_ite ?bge off8 t, branchIf_eq_ite ?bgt off8 t, branchIf_eq_ite ?ble off8 t, branchIf_eq_ite hc off8 t,
    branchIf_eq_ite ?bhis off8 t, branchIf_eq_ite ?bhi off8 t, branchIf_eq_ite ?blos off8 t⟩
  case bne => rw [Bool.not_eq_true', ← Bool.not_eq_true, hz]
  case bge => rw [Bool.not_eq_true', ← Bool.not_eq_true, hltB]; omega
  case bgt => rw [Bool.not_eq_true', ← Bool.not_eq_true, Bool.or_eq_true, hltB, hzInt]; omega
  case ble => rw [Bool.or_eq_true, hltB, hzInt]; omega
  case bhis => rw [Bool.not_eq_true', ← Bool.not_eq_true, hc]; omega
  case bhi =>
    rw [Bool.and_eq_true, Bool.not_eq_true', Bool.not_eq_true', ← Bool.not_eq_true, ← Bool.not_eq_true, hc, hzNat]
    omega
  case blos => rw [Bool.or_eq_true, hc, hzNat]; omega

end Sys2Proof.Machine
end

section
/-! Jumps, subroutines and the operate instructions: JMP, JSR, RTS, MARK, HALT, WAIT, RESET (R157, R200 to R208). -/

namespace Sys2Proof.Machine

/-! ## Parts of these instructions -/

/-- A read neither sees nor changes a register. -/
theorem readWord_setReg {a v : Word} {s t : State} (h : readWord a s = .ok v t) (r : Reg) (w : Word) :
    readWord a (s.setReg r w) = .ok v (t.setReg r w) := by
  have hread := readWord_congr (s := s) (s' := s.setReg r w) rfl rfl rfl rfl h
  rw [hread, (readWord_drawn h).eq]
  rfl

theorem SameMemoryBut.trans {s t u : State} {a : Word} {n : Nat} (h : SameMemoryBut s t a n)
    (hx : t.transfers <:+ s.transfers) (k : SameMemory t u) : SameMemoryBut s u a n := fun x hn ha => by
  rw [k x (fun d => hn (d.mono hx)), h x hn ha]

theorem SameControl.trans {s t u : State} (h : SameControl s t) (k : SameControl t u) : SameControl s u := by
  obtain ⟨hx, h1, h2, h3, h4, h5, h6, h7⟩ := h
  obtain ⟨kx, k1, k2, k3, k4, k5, k6, k7⟩ := k
  exact ⟨kx.trans hx, k1.trans h1, k2.trans h2, k3.trans h3, k4.trans h4, k5.trans h5, k6.trans h6, k7.trans h7⟩

/-- A word stored in memory is there in every state with that memory. -/
theorem WordStored.of_mem {s t u : State} {a v : Word} (h : WordStored s t (.mem a) v) (hu : u.mem = t.mem) :
    WordStored s u (.mem a) v := by
  rw [WordStored, HoldsWord, SameMemory, SameMemoryBut, hu]
  exact h

/-- An odd address rounded down is the one below it (R202). -/
theorem roundDown_of_odd {a : Word} (h : isOdd a = true) : roundDown a = a - 1#16 := by
  have hmask : roundDown a = a &&& ~~~1#16 := rfl
  have hbits : a = roundDown a ||| 1#16 := by
    apply BitVec.eq_of_getLsbD_eq
    intro i hi
    rw [hmask, BitVec.getLsbD_or, BitVec.getLsbD_and, BitVec.getLsbD_not, BitVec.getLsbD_one]
    obtain rfl | hpos := Nat.eq_zero_or_pos i
    · simpa [isOdd] using h
    · simp [hi, hpos.ne']
  have hsum : roundDown a + 1#16 = roundDown a ||| 1#16 := by
    refine BitVec.add_eq_or_of_and_eq_zero _ _ ?_
    rw [hmask, BitVec.and_assoc, show ~~~1#16 &&& 1#16 = 0#16 from rfl, BitVec.and_zero]
  rw [BitVec.eq_sub_iff_add_eq, hsum, ← hbits]

theorem jumpAddress_of_resolve {o : Operand} {s t : State} {a : Word} (hm : o.mode ≠ .register)
    (h : resolve .word o s = .ok (.mem a) t) : jumpAddress o s = .ok a t := by
  rw [jumpAddress, if_neg hm, h, Res.bind_ok]

theorem evenTarget_trap {a : Word} {s : State} (ho : isOdd a = true) (hp : s.params.oddJump = .trap) :
    evenTarget a s = .exn (.oddAddress a) s := by
  rw [evenTarget, if_pos ho, hp]

theorem evenTarget_ok {a : Word} {s : State} (h : isOdd a = false ∨ s.params.oddJump = .roundDown) :
    evenTarget a s = .ok (if isOdd a = true then a - 1#16 else a) s := by
  rw [evenTarget]
  split_ifs with ho
  · rw [h.resolve_left (by simp [ho]), roundDown_of_odd ho]
  · rfl

/-! ## JMP -/

theorem exec_jmp {dst : Operand} {s s1 : State} {a : Word} (hm : dst.mode ≠ .register)
    (h : resolve .word dst s = .ok (.mem a) s1) :
    exec (.jmp dst) s = finish ((evenTarget a s1).bind fun target s2 => .ok () (s2.setReg .r7 target)) := by
  change finish ((jumpAddress dst s).bind _) = _
  rw [jumpAddress_of_resolve hm h, Res.bind_ok]

/-- Settles O43: the target is made even, or raises, before the PC is written. -/
theorem jmpResult : Obligations.JmpResult := by
  intro s s1 dst a hm h
  obtain ⟨hmoved, hregs⟩ := resolve_moved h
  refine ⟨fun he => ⟨s1.setReg .r7 a, ?_, State.reg_setReg_same _ _ _, fun q hq => ?_, fun q h7 _ hs => ?_, hmoved.ps,
    hmoved.memory, (hmoved.setReg .r7 a).sameControl⟩, fun ho hp => ?_, fun ho hp => ?_⟩
  · rw [exec_jmp hm h, evenTarget_ok (.inl he), he]; rfl
  · rw [State.reg_setReg, if_neg hq]
  · rw [State.reg_setReg, if_neg h7, hregs q h7 (hs dst (by simp))]
  · exact traps_of_exn (exec_jmp hm h) (by rw [evenTarget_trap ho (hmoved.params ▸ hp), Res.bind_exn]) hmoved.params
  · rw [exec_jmp hm h, evenTarget_ok (.inr (hmoved.params ▸ hp)), if_pos ho]; rfl

/-- Settles O44: the mode is looked at before the operand is evaluated. -/
theorem illegalJumpTraps : Obligations.IllegalJumpTraps := by
  refine fun s reg r dst => ⟨rfl, rfl, fun hm => ?_⟩
  change finish (if dst.mode = .register then _ else _) = _
  rw [if_neg hm, if_pos rfl]; rfl

/-- Settles O45: each writes one field. -/
theorem operateResults : Obligations.OperateResults := fun _ => ⟨rfl, rfl, rfl⟩

/-! ## JSR -/

theorem exec_jsr {reg : Reg} {dst : Operand} {s s1 : State} {a : Word} (hm : dst.mode ≠ .register) (hr : reg ≠ .r6)
    (h : resolve .word dst s = .ok (.mem a) s1) :
    exec (.jsr reg dst) s = finish ((evenTarget a s1).bind fun target s2 =>
      (push (s2.reg reg) s2).bind fun _ s3 => .ok () ((s3.setReg reg s3.pc).setReg .r7 target)) := by
  change finish (if dst.mode = .register then _ else _) = _
  rw [if_neg hm, if_neg hr, jumpAddress_of_resolve hm h, Res.bind_ok]

/-- Settles O40: the target first, then each way the push can end. -/
theorem jsrResult : Obligations.JsrResult := by
  intro s s1 reg dst a hi hm hr h
  obtain ⟨hmoved, hregs⟩ := resolve_moved h
  refine ⟨fun ho hp => ?_, fun hok => ?_⟩
  · exact traps_of_exn (exec_jsr hm hr h) (by rw [evenTarget_trap ho (hmoved.params ▸ hp),
    Res.bind_exn]) hmoved.params
  intro u
  have hexec := exec_jsr hm hr h
  rw [evenTarget_ok (by rw [hmoved.params]; exact hok), Res.bind_ok] at hexec
  have hup : u.params = s.params := hmoved.params
  refine ⟨fun hw => ?_, fun ho => ?_, fun he ha => ?_⟩
  · have hu := hmoved.setReg .r6 (s1.sp - 2#16)
    have hstored := (wordStored_putLocWord (s := u) (l := .mem (s1.sp - 2#16)) (s1.reg reg) hw).from hu rfl fun _ => rfl
    rw [push_eq_ok.mpr ⟨hw, rfl⟩, Res.bind_ok, finish_ok] at hexec
    refine ⟨_, hexec, State.reg_setReg_same _ _ _, ?_, fun h7 => ?_, hstored.of_mem rfl, fun q h6 h7 hq => ?_, ?_, ?_⟩
    · simp [State.reg_setReg, hr.symm]
    · simp [State.reg_setReg, h7]
    · refine ⟨?_, fun hs => (?_ : _ = s1.reg q).trans (hregs q h7 hs)⟩ <;> simp [State.reg_setReg, h6, h7, hq]
    · exact (State.putWord_ps _ _ _).trans hmoved.ps
    · refine hu.sameControl.trans ⟨State.putWord_transfers u _ _, ?_⟩
      rw [State.putWord_eq]; exact ⟨rfl, rfl, rfl, rfl, rfl, rfl, rfl⟩
  · exact traps_of_exn hexec (by rw [push_odd _ ho, Res.bind_exn]) hup
  · exact traps_of_exn hexec (by rw [push_absent _ he (by rw [hmoved.params]; exact ha),
    Res.bind_exn]) (by simpa using hup)

/-! ## RTS and MARK -/

/-- Settles O41: each way the pop can end, the PC already loaded. -/
theorem rtsResult : Obligations.RtsResult := by
  intro s reg
  have hexec (hr : reg ≠ .r6) : exec (.rts reg) s =
      finish ((pop (s.setReg .r7 (s.reg reg))).bind fun v s1 => .ok () (s1.setReg reg v)) := by
    change finish (if reg = .r6 then _ else _) = _
    rw [if_neg hr]
  refine ⟨by cases reg <;> rfl, fun hr => by rw [hr]; rfl, fun hr => ⟨fun v s1 h => ?_, fun ho => ?_,
    fun he ha => ?_⟩⟩
  · have hd := readWord_drawn h
    have hpop := pop_of_read (s := s.setReg .r7 (s.reg reg)) (readWord_setReg h .r7 (s.reg reg))
    rw [hexec hr, hpop, Res.bind_ok, finish_ok]
    have hmoved := ((hd.moved.setReg .r7 (s.reg reg)).setReg .r6 (s.sp + 2#16)).setReg reg v
    refine ⟨_, rfl, fun h7 => ?_, fun h7 => ⟨?_, State.reg_setReg_same _ _ _⟩, ?_, fun q h6 h7 hq => ?_, hmoved.ps,
      hmoved.memory, hmoved.sameControl⟩
    · simp [h7]
    · simp [State.reg_setReg, h7.symm]
    · simp [State.reg_setReg, hr.symm]
    · simp [State.reg_setReg, h6, h7, hq, hd.reg]
  · exact traps_of_exn (e := .oddAddress s.sp) (hexec hr) (by rw [pop_odd (by exact ho), Res.bind_exn]; rfl) rfl
  · refine traps_of_exn (e := .busTimeout s.sp) (hexec hr) ?_ (by simp)
    rw [pop_absent (by exact he) (by exact ha), Res.bind_exn]; rfl

/-- Settles O34: each way the pop can end, SP and the PC already loaded. -/
theorem markResult : Obligations.MarkResult := by
  intro s nn a u
  have hexec : exec (.mark nn) s = finish ((pop u).bind fun v s1 => .ok () (s1.setReg .r5 v)) := rfl
  refine ⟨fun v s1 h => ?_, fun ho => ?_, fun he ha => ?_⟩
  · have hd := readWord_drawn h
    have hpop := pop_of_read (s := u) (readWord_setReg (readWord_setReg h .r6 a) .r7 (s.reg .r5))
    rw [hexec, hpop, Res.bind_ok, finish_ok]
    have hmoved := (((hd.moved.setReg .r6 a).setReg .r7 (s.reg .r5)).setReg .r6 (u.sp + 2#16)).setReg .r5 v
    refine ⟨_, rfl, rfl, rfl, rfl, fun q h5 h6 h7 => ?_, hmoved.ps, hmoved.memory, hmoved.sameControl⟩
    simp [State.reg_setReg, h5, h6, h7, hd.reg]
  · exact traps_of_exn (e := .oddAddress a) hexec (by rw [pop_odd (by exact ho), Res.bind_exn]; rfl) rfl
  · refine traps_of_exn (e := .busTimeout a) hexec ?_ (by simp [u])
    rw [pop_absent (by exact he) (by exact ha), Res.bind_exn]; rfl

/-- Settles O42: RTS pops the word that JSR pushed. -/
theorem jsrThenRts : Obligations.JsrThenRts := by
  intro s s1 t reg dst a hi hm hr h ha he hram hdev hexec
  obtain ⟨hmoved, -⟩ := resolve_moved h
  obtain ⟨t', hexec', hpc, hsp, hlink, hstored, hregs, hps, hctl⟩ :=
    ((jsrResult s s1 reg dst a hi hm hr h).2 (.inl ha)).1 ⟨he, by rw [hram]; decide⟩
  obtain rfl : t' = t := by rw [hexec] at hexec'; cases hexec'; rfl
  rw [WordStored, ← hmoved.params, if_pos hram] at hstored
  obtain ⟨⟨hlo, hhi⟩, hmem⟩ := hstored
  have hlo' := read_busTurn_of_not hctl.1 (hdev 0 (by omega)) hlo
  have hhi' := read_busTurn_of_not hctl.1 (hdev 1 (by omega)) hhi
  have hread : readWord t'.sp t' = .ok (s1.reg reg) t'.busTurn := by
    rw [hsp]
    exact readWord_ram he (by rw [hctl.2.2.2.2.2.2.2, ← hmoved.params]; exact hram) ⟨hlo', hhi'⟩
  obtain ⟨-, -, hrts⟩ := rtsResult t' reg
  obtain ⟨u, hu, hpc7, hpcr, husp, huregs, hups, humem, huctl⟩ := (hrts hr).1 _ _ hread
  have husp1 : u.sp = s1.sp := by rw [husp, hsp, BitVec.sub_add_cancel]
  have hupc : u.pc = s1.pc := by
    by_cases h7 : reg = .r7
    · rw [hpc7 h7, h7]; rfl
    · rw [(hpcr h7).1, hlink h7]
  refine ⟨u, hu, hupc, husp1, fun q => ?_, hups.trans hps, hmem.trans hctl.1 humem, hctl.trans huctl⟩
  by_cases h6 : q = .r6
  · rw [h6]; exact husp1
  by_cases h7 : q = .r7
  · rw [h7]; exact hupc
  by_cases hq : q = reg
  · rw [hq]; exact (hpcr (hq ▸ h7)).2
  · rw [huregs q h6 h7 hq, (hregs q h6 h7 hq).1]

end Sys2Proof.Machine
end

section
/-! Trap entry, the double fault inside it, the trap returns, and the instructions that only trap (R205, R220 to R224,
R236, R240, R241). -/

namespace Sys2Proof.Machine

/-! ## The state during trap entry -/

/-- `t` is `s` after reads and pushes that have left SP at `a`. -/
structure StackAt (s t : State) (a : Word) : Prop where
  eq : t = { s with regs := s.regs.set .r6 a, mem := t.mem, transfers := t.transfers }
  transfers : t.transfers <:+ s.transfers

namespace StackAt

variable {s t : State} {a : Word}

theorem refl (s : State) : StackAt s s s.sp := by
  refine ⟨?_, List.suffix_refl _⟩
  rw [show s.regs.set .r6 s.sp = s.regs from Regs.set_get s.regs .r6]

theorem busTurn (h : StackAt s t a) : StackAt s t.busTurn a := by
  refine ⟨?_, (State.busTurn_transfers t).trans h.transfers⟩
  rw [State.busTurn_eq t, h.eq]

theorem setSp (h : StackAt s t a) (b : Word) : StackAt s (t.setReg .r6 b) b := by
  refine ⟨?_, h.transfers⟩
  rw [h.eq, State.setReg, Regs.set_set]

theorem putWord (h : StackAt s t a) (b v : Word) : StackAt s (t.putWord b v) a := by
  refine ⟨?_, (State.putWord_transfers t b v).trans h.transfers⟩
  rw [State.putWord_eq t, h.eq]

theorem reg (h : StackAt s t a) {q : Reg} (hq : q ≠ .r6) : t.reg q = s.reg q := by
  rw [h.eq]
  exact (Regs.get_set s.regs .r6 q a).trans (if_neg hq)

theorem sp (h : StackAt s t a) : t.sp = a := by
  rw [h.eq]
  exact (Regs.get_set s.regs .r6 .r6 a).trans (if_pos rfl)

theorem params (h : StackAt s t a) : t.params = s.params := by rw [h.eq]

theorem doubleFaulted (h : StackAt s t a) : DoubleFaulted s t.afterDoubleFault a := by
  refine ⟨rfl, rfl, h.reg (by decide), ?_, h.sp, fun q hq => h.reg hq, ?_, ?_, ?_, ?_, h.params, ?_, h.transfers⟩
  all_goals rw [h.eq]; rfl

end StackAt

/-- The state after a word is pushed. -/
def State.pushed (s : State) (v : Word) : State := (s.setReg .r6 (s.sp - 2#16)).putWord (s.sp - 2#16) v

theorem push_pushed {s : State} (v : Word) (he : isOdd s.sp = false)
    (hr : region s.params (s.sp - 2#16) 2 ≠ .absent) :
    push v s = .ok () (s.pushed v) :=
  push_eq_ok.mpr ⟨⟨by rw [isOdd_sub_two, he], hr⟩, rfl⟩

theorem StackAt.pushed {s t : State} {a : Word} (h : StackAt s t a) (v : Word) :
    StackAt s (t.pushed v) (a - 2#16) := by
  rw [State.pushed, h.sp]
  exact (h.setSp _).putWord _ v

/-- A word pushed to RAM stands below the old SP. -/
theorem pushed_ram {s : State} (v : Word) (he : isOdd s.sp = false) (hr : region s.params (s.sp - 2#16) 2 = .ram) :
    HoldsWord (s.pushed v) (s.sp - 2#16) v ∧ SameMemoryBut s (s.pushed v) (s.sp - 2#16) 2 :=
  putWord_ram (s := s.setReg .r6 (s.sp - 2#16)) v (by rw [isOdd_sub_two, he]) hr

theorem pushed_device {s : State} (v : Word) (hr : region s.params (s.sp - 2#16) 2 ≠ .ram) :
    SameMemory s (s.pushed v) :=
  putWord_device (s := s.setReg .r6 (s.sp - 2#16)) v hr

/-- Memory after two turns of the devices is as before but where they store. -/
theorem twoTurns_sameMemory (s : State) : SameMemory s s.busTurn.busTurn :=
  (busTurn_sameMemory s).trans (State.busTurn_transfers s) (busTurn_sameMemory _)

theorem twoTurns_stackAt (s : State) : StackAt s s.busTurn.busTurn s.sp := (StackAt.refl s).busTurn.busTurn

/-- The vector's two words are read, the devices taking a turn before each (R236, R44). -/
theorem enterVector_of_ready {s : State} {v newPc newPs : Word} (h : VectorReady s v newPc newPs) :
    enterVector v s =
      if stackOverlapsVector v s.sp then .refused .stackOverlapsVector
      else (push s.ps s.busTurn.busTurn).bind fun _ s3 => (push s.pc s3).bind fun _ s4 =>
        .ok () { (s4.setReg .r7 newPc).writePs newPs with run := .running } := by
  obtain ⟨he, hr, hr2, h1, h2⟩ := h
  rw [enterVector, readWord_ram he hr h1, Res.bind_ok,
    readWord_ram (by rw [isOdd_add_two, he]) (by rw [State.busTurn_params]; exact hr2) h2, Res.bind_ok,
    (twoTurns_stackAt s).sp]

theorem overlaps_iff {v sp : Word} : stackOverlapsVector v sp = true ↔
    sp - 2#16 = v ∨ sp - 2#16 = v + 2#16 ∨ sp - 4#16 = v ∨ sp - 4#16 = v + 2#16 := by
  simp [stackOverlapsVector, or_assoc]

/-- RAM ends below the top of the address space, so two words of RAM on the stack do not wrap (R40). -/
theorem toNat_sub_two {p : Params} (hp : p.wf = true) {a : Word} (hr : region p (a - 4#16) 2 = .ram) :
    (a - 2#16).toNat = (a - 4#16).toNat + 2 := by
  simp only [Params.wf, Bool.and_eq_true, decide_eq_true_eq] at hp
  have htop : (a - 4#16).toNat + 2 ≤ p.ramTop := region_eq_ram.mp hr
  rw [show a - 2#16 = a - 4#16 + 2#16 by bv_omega, BitVec.toNat_add]
  exact Nat.mod_eq_of_lt (show _ + 2 < 65536 by omega)

/-! ## Trap entry -/

/-- The state in which the handler begins, the stack written. -/
def State.entered (s : State) (newPc newPs : Word) : State :=
  { (s.setReg .r7 newPc).writePs newPs with run := .running }

theorem trapEntry_of_pushes {s s3 s4 : State} {v newPc newPs : Word} (hv : VectorReady s v newPc newPs)
    (ho : stackOverlapsVector v s.sp = false) (h1 : push s.ps s.busTurn.busTurn = .ok () s3)
    (h2 : push s.pc s3 = .ok () s4) : trapEntry v s = .next (s4.entered newPc newPs) := by
  rw [trapEntry, enterVector_of_ready hv, ho, if_neg (by decide), h1, Res.bind_ok, h2, Res.bind_ok]
  rfl

theorem StackAt.entersTrap {s t : State} (h : StackAt s t (s.sp - 4#16)) (newPc newPs : Word)
    (hps : KeepsWord s t (s.sp - 2#16) s.ps) (hpc : HoldsWord t (s.sp - 4#16) s.pc)
    (hmem : SameMemoryBut s t (s.sp - 4#16) 4) : EntersTrap s (t.entered newPc newPs) newPc newPs := by
  have hpcReg : (t.entered newPc newPs).pc = newPc := State.reg_setReg_same t .r7 newPc
  have hmask : (t.entered newPc newPs).ps = newPs &&& s.params.psMask := by rw [← h.params]; rfl
  have hreg (q : Reg) (h7 : q ≠ .r7) : (t.entered newPc newPs).reg q = t.reg q :=
    (State.reg_setReg t .r7 q newPc).trans (if_neg h7)
  refine ⟨hpcReg, hmask, (hreg .r6 (by decide)).trans h.sp, hps, hpc, hmem,
    fun q h6 h7 => (hreg q h7).trans (h.reg h6), rfl, ?_, ?_, ?_, h.params, ?_, h.transfers⟩
  all_goals rw [h.eq]; rfl

/-- The two words that trap entry pushes to RAM: the second is below the first, and apart from it. -/
theorem twoPushes_ram {s t : State} (hp : s.params.wf = true) (hat : StackAt s t s.sp) (he : isOdd s.sp = false)
    (hr2 : region s.params (s.sp - 2#16) 2 = .ram) (hr4 : region s.params (s.sp - 4#16) 2 = .ram) (p q : Word)
    (hm : SameMemory s t) :
    push p t = .ok () (t.pushed p) ∧ push q (t.pushed p) = .ok () ((t.pushed p).pushed q) ∧
      StackAt s ((t.pushed p).pushed q) (s.sp - 4#16) ∧ KeepsWord s ((t.pushed p).pushed q) (s.sp - 2#16) p ∧
      HoldsWord ((t.pushed p).pushed q) (s.sp - 4#16) q ∧
      SameMemoryBut s ((t.pushed p).pushed q) (s.sp - 4#16) 4 := by
  have hsub : s.sp - 2#16 - 2#16 = s.sp - 4#16 := by bv_omega
  have hat3 := hat.pushed p
  have hat4 := hat3.pushed q
  rw [hsub] at hat4
  have he3 : isOdd (t.pushed p).sp = false := by rw [hat3.sp, isOdd_sub_two, he]
  have hr3 : region (t.pushed p).params ((t.pushed p).sp - 2#16) 2 = .ram := by rw [hat3.sp, hsub, hat3.params, hr4]
  rw [← hat.sp] at he
  rw [← hat.sp, ← hat.params] at hr2
  obtain ⟨⟨hlo, hhi⟩, hmem3⟩ := pushed_ram p he hr2
  obtain ⟨hq, hmem4⟩ := pushed_ram q he3 hr3
  have habove := toNat_sub_two hp hr4
  rw [hat.sp] at hlo hhi hmem3
  rw [hat3.sp, hsub] at hq hmem4
  have kept {x : Nat} (hn : ¬ s.DeviceStoresTo x)
      (hx : x < (s.sp - 4#16).toNat ∨ (s.sp - 4#16).toNat + 2 ≤ x) :
      ((t.pushed p).pushed q).mem.read x = (t.pushed p).mem.read x :=
    hmem4 x (fun hd => hn (hd.mono hat3.transfers)) hx
  refine ⟨push_pushed p he (by rw [hr2]; decide), push_pushed q he3 (by rw [hr3]; decide), hat4,
    ⟨fun hn => ?_, fun hn => ?_⟩, hq, fun x hn hx => ?_⟩
  · rw [kept hn (by omega), hlo]
  · rw [kept hn (by omega), hhi]
  · rw [kept hn (by omega), hmem3 x (fun hd => hn (hd.mono hat.transfers)) (by omega), hm x hn]

/-- A trap that can be taken enters its vector, the old PS and PC pushed (R236). -/
theorem trapEntry_of_ready {s : State} {v newPc newPs : Word} (hp : s.params.wf = true)
    (h : TrapReady s v newPc newPs) :
    ∃ t,
      trapEntry v s = .next t ∧ EntersTrap s t newPc newPs ∧ t.pending = s.pending ∧ t.traceArmed = s.traceArmed := by
  obtain ⟨hv, he, ho, hr2, hr4⟩ := h
  obtain ⟨h1, h2, hat, hps, hpc, hmem⟩ :=
    twoPushes_ram hp (twoTurns_stackAt s) he hr2 hr4 s.ps s.pc (twoTurns_sameMemory s)
  refine ⟨_, trapEntry_of_pushes hv ho h1 h2, hat.entersTrap newPc newPs hps hpc hmem, ?_, ?_⟩
  all_goals rw [hat.eq]; rfl

/-- Settles O46: the two reads, the check of the overlap, and the two pushes. -/
theorem trapEntryResult : Obligations.TrapEntryResult := by
  intro s v newPc newPs hi
  refine ⟨fun h => trapEntry_of_ready hi.1 h, fun hv ho => ?_⟩
  rw [trapEntry, enterVector_of_ready hv, overlaps_iff.mpr ho, if_pos rfl]

/-- A push that raises inside trap entry ends in the double fault (R241). -/
theorem trapEntry_of_push_exn {s u : State} {e : Exn} {v newPc newPs a : Word} (hv : VectorReady s v newPc newPs)
    (ho : stackOverlapsVector v s.sp = false)
    (h : ((push s.ps s.busTurn.busTurn).bind fun _ s3 => push s.pc s3) = .exn e u) (hat : StackAt s u a) :
    ∃ t, trapEntry v s = .next t ∧ DoubleFaulted s t a ∧ t.mem = u.mem := by
  refine ⟨u.afterDoubleFault, ?_, hat.doubleFaulted, rfl⟩
  rw [trapEntry, enterVector_of_ready hv, ho, if_neg (by decide)]
  cases h1 : push s.ps s.busTurn.busTurn with
  | ok x s3 => rw [h1, Res.bind_ok] at h; rw [Res.bind_ok, h, Res.bind_exn]
  | exn e' u' => rw [h1, Res.bind_exn] at h; cases h; rfl
  | fault f => rw [h1] at h; cases h
  | refused r => rw [h1] at h; cases h

theorem not_overlaps_of_odd {v sp : Word} (hv : isOdd v = false) (hs : isOdd sp = true) :
    stackOverlapsVector v sp = false := by
  rw [← Bool.not_eq_true, overlaps_iff]
  rintro (h | h | h | h) <;> have := congrArg isOdd h <;>
    simp [isOdd_sub_two, isOdd_sub_four, isOdd_add_two, hv, hs] at this

theorem SameMemory.of_mem {s t u : State} (h : SameMemory s t) (hu : u.mem = t.mem) : SameMemory s u := by
  rw [SameMemory, hu]; exact h

/-- Settles O47: each way an access of trap entry can raise. -/
theorem doubleFaultHalts : Obligations.DoubleFaultHalts := by
  intro s v newPc newPs hp
  have hat := twoTurns_stackAt s
  have hmem := twoTurns_sameMemory s
  refine ⟨fun hv => ⟨fun hodd => ?_, fun he ho ha => ?_, fun he ho hr ha => ?_⟩, fun hodd => ?_, fun he ha => ?_,
    fun he hr hw ha => ?_⟩
  · obtain ⟨t, ht, hd, hu⟩ := trapEntry_of_push_exn hv (not_overlaps_of_odd hv.1 hodd)
      (by rw [push_odd _ (by rw [hat.sp]; exact hodd), Res.bind_exn]) (hat.setSp _)
    rw [hat.sp] at hd
    exact ⟨t, ht, hd, hmem.of_mem hu⟩
  · obtain ⟨t, ht, hd, hu⟩ := trapEntry_of_push_exn hv ho
      (by rw [push_absent _ (by rw [hat.sp]; exact he) (by rw [hat.sp, hat.params]; exact ha), Res.bind_exn])
      (hat.setSp _).busTurn
    rw [hat.sp] at hd
    exact ⟨t, ht, hd, (hmem.trans hat.transfers (busTurn_sameMemory (State.setReg _ _ _))).of_mem hu⟩
  · set s3 := s.busTurn.busTurn.pushed s.ps with hs3
    have hat3 : StackAt s s3 (s.sp - 2#16) := hat.pushed s.ps
    have hsub : s.sp - 2#16 - 2#16 = s.sp - 4#16 := by bv_omega
    have hpush : push s.ps s.busTurn.busTurn = .ok () s3 :=
      push_pushed _ (by rw [hat.sp]; exact he) (by rw [hat.sp, hat.params]; exact hr)
    have hpush2 := push_absent (s := s3) s.pc (by rw [hat3.sp, isOdd_sub_two]; exact he)
      (by rw [hat3.sp, hsub, hat3.params]; exact ha)
    obtain ⟨t, ht, hd, hu⟩ := trapEntry_of_push_exn hv ho (by rw [hpush, Res.bind_ok, hpush2]) (hat3.setSp _).busTurn
    rw [hat3.sp, hsub] at hd
    have hlast : SameMemory s3 t := (busTurn_sameMemory (s3.setReg .r6 (s3.sp - 2#16))).of_mem hu
    refine ⟨t, ht, hd, ?_⟩
    split_ifs with hram
    · obtain ⟨⟨hlo, hhi⟩, hmem3⟩ := pushed_ram (s := s.busTurn.busTurn) s.ps (by rw [hat.sp]; exact he)
        (by rw [hat.sp, hat.params]; exact hram)
      rw [hat.sp] at hlo hhi hmem3
      refine ⟨⟨fun hn => ?_, fun hn => ?_⟩, (hmem.trans_but hat.transfers hmem3).trans hat3.transfers hlast⟩
      · exact (hlast _ fun h => hn (h.mono hat3.transfers)).trans hlo
      · exact (hlast _ fun h => hn (h.mono hat3.transfers)).trans hhi
    · have hmem3 := pushed_device (s := s.busTurn.busTurn) s.ps (by rw [hat.sp, hat.params]; exact hram)
      exact (hmem.trans hat.transfers hmem3).trans hat3.transfers hlast
  · rw [trapEntry, enterVector, readWord_odd s hodd, Res.bind_exn]
  · rw [trapEntry, enterVector, readWord_absent he ha, Res.bind_exn]
  · rw [trapEntry, enterVector, readWord_ram he hr hw, Res.bind_ok,
      readWord_absent (by rw [isOdd_add_two, he]) (by rw [State.busTurn_params]; exact ha), Res.bind_exn]

/-! ## Instructions that only trap -/

/-- Whether a trap can be taken depends on the registers, memory, the transfers waiting and the parameters. -/
theorem TrapReady.congr {s t : State} {v newPc newPs : Word} (h : TrapReady s v newPc newPs) (hr : t.regs = s.regs)
    (hm : t.mem = s.mem) (hx : t.transfers = s.transfers) (hp : t.params = s.params) : TrapReady t v newPc newPs := by
  have hb1 := State.busTurn_congr hm hx hp
  have hb2 := State.busTurn_congr (s := s.busTurn) (t := t.busTurn) (by rw [hb1]) (by rw [hb1]) (by simp [hp])
  have hsp : t.sp = s.sp := State.reg_congr hr .r6
  rw [TrapReady, VectorReady, hsp, hp, hb2, hb1]
  exact h

/-- An instruction that raises an exception enters its vector, `trace_armed` cleared (R243). -/
theorem trapOutcome_of_raise {i : Instr} {s : State} {e : Exn} {v newPc newPs : Word} (hi : s.Inv)
    (h : TrapReady s v newPc newPs) (hexec : exec i s = raise e s) (hv : vectorOf e s.params = v) :
    TrapOutcome i s newPc newPs := by
  have hready : TrapReady { s with traceArmed := false } v newPc newPs := h.congr rfl rfl rfl rfl
  obtain ⟨t, ht, henters, hpending, harmed⟩ := trapEntry_of_ready (s := { s with traceArmed := false }) hi.1 hready
  exact ⟨t, by rw [hexec, raise, hv, ht], henters, hpending, harmed⟩

/-- Settles O50: each raises the reserved-instruction exception. -/
theorem reservedWordsTrap : Obligations.ReservedWordsTrap := by
  intro s newPc newPs hi h
  have traps {i : Instr} (hexec : exec i s = raise .reservedInstruction s) : TrapOutcome i s newPc newPs :=
    trapOutcome_of_raise hi h hexec rfl
  have supplement {i : Instr} {x : Out} (hp : s.params.supplementPresent = false)
      (hexec : exec i s = supplementOr s x) : TrapOutcome i s newPc newPs :=
    traps (by rw [hexec, supplementOr, hp]; rfl)
  refine ⟨fun x3 x4 x5 x6 x7 x8 x9 => ?_, fun hb => ?_, fun hp code =>
    ⟨supplement hp rfl, supplement hp rfl, supplement hp rfl, fun hb => ?_⟩⟩
  · simp only [List.forall_mem_cons]
    exact ⟨traps rfl, traps rfl, traps rfl, traps rfl, traps rfl, traps rfl, traps rfl, traps rfl, traps rfl,
      traps rfl, traps rfl, traps rfl, traps rfl, traps rfl, traps rfl, traps rfl, traps rfl, traps rfl, by simp⟩
  · refine traps ?_
    change execUnlisted000003 s = _
    rw [execUnlisted000003, hb]
  · refine traps ?_
    change execBpt s = _
    rw [execBpt, hb]
    simp [hp]

/-- Settles O51: each raises its own exception. -/
theorem softwareTraps : Obligations.SoftwareTraps := by
  intro s newPc newPs hi
  have supplement {i : Instr} {e : Exn} (hp : s.params.supplementPresent = true)
      (hexec : exec i s = supplementOr s (raise e s)) : exec i s = raise e s := by rw [hexec, supplementOr, if_pos hp]
  refine ⟨fun h => ⟨fun hb => trapOutcome_of_raise (e := .breakpoint) hi h ?_ rfl,
    fun hb => trapOutcome_of_raise (e := .breakpoint) hi h ?_ rfl⟩, fun hp code =>
    ⟨fun h => trapOutcome_of_raise (e := .emt) hi h (supplement hp rfl) rfl,
      fun h => trapOutcome_of_raise (e := .trap) hi h (supplement hp rfl) rfl,
      fun h hb => trapOutcome_of_raise (e := .iot) hi h ?_ rfl⟩⟩
  · change execBpt s = _
    rw [execBpt, hb]
  · change execUnlisted000003 s = _
    rw [execUnlisted000003, hb]
  · change execBpt s = _
    rw [execBpt, hb]
    simp [hp]

/-! ## Trap returns -/

/-- A trap return whose words can be read pops the PC and then the masked PS (R240). -/
theorem trapReturn_of_reads {s s1 s2 : State} {newPc newPs : Word} (h1 : readWord s.sp s = .ok newPc s1)
    (h2 : readWord (s.sp + 2#16) s1 = .ok newPs s2) :
    ∃ u, trapReturn s = .ok () u ∧ u.pc = newPc ∧ u.ps = newPs &&& s.params.psMask ∧ u.sp = s.sp + 4#16 ∧
      (∀ q, q ≠ .r6 → q ≠ .r7 → u.reg q = s.reg q) ∧ SameMemory s u ∧ SameControl s u := by
  have hd := (readWord_drawn h1).trans (readWord_drawn h2)
  have hpop1 := pop_of_read h1
  set x := (s1.setReg .r6 (s.sp + 2#16)).setReg .r7 newPc with hx
  have hpop2 := pop_of_read (s := x) (readWord_setReg (readWord_setReg h2 .r6 (s.sp + 2#16)) .r7 newPc)
  have hmoved := (((hd.moved.setReg .r6 (s.sp + 2#16)).setReg .r7 newPc).setReg .r6 (x.sp + 2#16))
  have hsp : x.sp + 2#16 = s.sp + 4#16 := by
    rw [show x.sp = s.sp + 2#16 from rfl, BitVec.add_assoc]; rfl
  have hret : trapReturn s = (pop x).bind fun p t => .ok () (t.writePs p) := by rw [trapReturn, hpop1, Res.bind_ok]
  rw [hpop2, Res.bind_ok] at hret
  refine ⟨_, hret, rfl, ?_, hsp, fun q h6 h7 => ?_, hmoved.memory, ?_⟩
  · rw [State.writePs_ps, hmoved.params]
  · simp [State.reg_setReg, h6, h7, hd.reg]
  · exact hmoved.sameControl

/-- The pops of a trap return that cannot be made (R35, R41, R253). -/
theorem popsTrap {i : Instr} {s : State} {k : Unit → State → Res Unit}
    (hexec : exec i s = finish ((trapReturn s).bind k)) : PopsTrap i s := by
  refine ⟨fun ho => ?_, fun he ha => ?_, fun newPc s1 h1 ha => ?_⟩
  · exact traps_of_exn hexec (by rw [trapReturn, pop_odd ho, Res.bind_exn, Res.bind_exn]) rfl
  · exact traps_of_exn hexec (by rw [trapReturn, pop_absent he ha, Res.bind_exn, Res.bind_exn]) (by simp)
  · have hd := readWord_drawn h1
    have hpop2 := pop_absent (s := (s1.setReg .r6 (s.sp + 2#16)).setReg .r7 newPc)
      ((isOdd_add_two s.sp).trans (readWord_ok h1).1)
      (by rw [State.setReg_params, State.setReg_params, hd.params]; exact ha)
    refine traps_of_exn hexec (e := .busTimeout (s.sp + 2#16)) ?_ (by simp [hd.params])
    rw [trapReturn, pop_of_read h1, Res.bind_ok, hpop2, Res.bind_exn, Res.bind_exn]
    rfl

/-- Settles O48: two pops, then `trace_armed` from the T bits. -/
theorem rtiResult : Obligations.RtiResult := by
  intro s
  have hexec : exec .rti s =
      finish ((trapReturn s).bind fun _ t => .ok () { t with traceArmed := t.traceArmed || t.flagT }) := rfl
  refine ⟨fun s1 s2 newPc newPs h1 h2 => ?_, popsTrap hexec⟩
  obtain ⟨u, hu, hpc, hps, hsp, hregs, hmem, -, hrun, hpending, harmed, hpower, hhalt, hfault, hparams⟩ :=
    trapReturn_of_reads h1 h2
  rw [hexec, hu, Res.bind_ok, finish_ok]
  exact ⟨_, rfl, hpc, hps, hsp, hregs, hmem, hrun, hpending, by rw [← harmed]; rfl, hpower, hhalt, hfault, hparams⟩

/-- Settles O52: two pops as for RTI; the T bit popped disarms. -/
theorem rttResult : Obligations.RttResult := by
  intro s hp
  have hexec : exec .unlisted000006 s =
      finish ((trapReturn s).bind fun _ t => .ok () { t with traceArmed := t.traceArmed && !t.flagT }) := by
    change supplementOr s _ = _
    rw [supplementOr, if_pos hp]
  refine ⟨fun s1 s2 newPc newPs h1 h2 => ?_, popsTrap hexec⟩
  obtain ⟨u, hu, hpc, hps, hsp, hregs, hmem, -, hrun, hpending, harmed, hpower, hhalt, hfault, hparams⟩ :=
    trapReturn_of_reads h1 h2
  rw [hexec, hu, Res.bind_ok, finish_ok]
  refine ⟨_, rfl, hpc, hps, hsp, hregs, hmem, hrun, hpending, fun ht => ?_, fun ht => ?_, hpower, hhalt, hfault,
    hparams⟩
  · have ht' : u.flagT = true := ht
    simp [ht']
  · have ht' : u.flagT = false := ht
    simp [ht', harmed]

/-- Settles O49: the words that trap entry pushed are those that RTI pops. -/
theorem trapThenReturn : Obligations.TrapThenReturn := by
  intro s t v newPc newPs hi h hdev ht
  obtain ⟨t', ht', henters, hpending, harmed⟩ := trapEntry_of_ready hi.1 h
  obtain rfl : t' = t := by rw [ht] at ht'; cases ht'; rfl
  obtain ⟨hpc, hps, hsp, ⟨hkeepLo, hkeepHi⟩, ⟨hlo, hhi⟩, hmem, hregs, hrun, -, -, -, hparams, -, hx⟩ := henters
  obtain ⟨-, he, -, hr2, hr4⟩ := h
  have habove := toNat_sub_two hi.1 hr4
  have hread1 : readWord t'.sp t' = .ok s.pc t'.busTurn := by
    rw [hsp]
    exact readWord_ram (by rw [isOdd_sub_four, he]) (by rw [hparams]; exact hr4)
      ⟨read_busTurn_of_not hx (hdev 0 (by omega)) hlo, read_busTurn_of_not hx (hdev 1 (by omega)) hhi⟩
  have keep {x : Nat} {b : Byte} (hn : ¬ s.DeviceStoresTo x) (hb : ¬ s.DeviceStoresTo x → t'.mem.read x = some b) :
      t'.busTurn.busTurn.mem.read x = some b :=
    read_busTurn_of_not ((State.busTurn_transfers t').trans hx) hn (read_busTurn_of_not hx hn (hb hn))
  have hread2 : readWord (t'.sp + 2#16) t'.busTurn = .ok s.ps t'.busTurn.busTurn := by
    rw [hsp, show s.sp - 4#16 + 2#16 = s.sp - 2#16 by bv_omega]
    refine readWord_ram (by rw [isOdd_sub_two, he]) (by rw [State.busTurn_params, hparams]; exact hr2)
      ⟨keep ?_ hkeepLo, keep ?_ hkeepHi⟩
    · rw [habove]; exact hdev 2 (by omega)
    · rw [habove]; exact hdev 3 (by omega)
  obtain ⟨u, hu, hupc, hups, husp, huregs, humem, hurun, hupending, -, -, -, -, huparams⟩ :=
    (rtiResult t').1 _ _ _ _ hread1 hread2
  have husp' : u.sp = s.sp := by rw [husp, hsp, BitVec.sub_add_cancel]
  refine ⟨u, hu, fun q => ?_, ?_, hmem.trans hx humem, hurun.trans hrun, hupending.trans hpending,
    huparams.trans hparams⟩
  · by_cases h6 : q = .r6
    · rw [h6]; exact husp'
    by_cases h7 : q = .r7
    · rw [h7]; exact hupc
    · rw [huregs q h6 h7, hregs q h6 h7]
  · rw [hups, hparams, masked_of_clear hi.2.2.2.1]

end Sys2Proof.Machine
end

section
/-! The step and the boundary: the fetch, the request chosen, and the events in their order (R13, R23, R242 to R245). -/

namespace Sys2Proof.Machine

/-! ## The fetch -/

/-- Settles O4: the two bytes are a word, and every word decodes to a well-formed instruction. -/
theorem stepRunsDecodedInstruction : Obligations.StepRunsDecodedInstruction := by
  intro s lo hi i hr he hram hlo hhi hdec
  obtain rfl : decodeWord (joinBytes hi lo) = i := by
    have hdec : Except.ok (decodeWord (joinBytes hi lo), []) = Except.ok (i, []) := hdec
    cases hdec; rfl
  have hw : HoldsWord s.busTurn s.pc (joinBytes hi lo) := by
    rw [HoldsWord, lowByte_joinBytes, highByte_joinBytes, ← toNat_succ_of_even he]
    exact ⟨hlo, hhi⟩
  exact ⟨(decodeWord_hasWord _).1, step_of_holdsWord hr he hram hw⟩

/-- Settles O5: the fetch raises before an access is made. -/
theorem oddFetchTraps : Obligations.OddFetchTraps := by
  intro s hr ho
  have hfetch : fetchInstr s = .exn (.oddAddress s.pc) { s with traceArmed := s.flagT } := by
    have hread := readWord_odd { s with traceArmed := s.flagT } ho
    rw [fetchInstr, fetch, show State.pc { s with traceArmed := s.flagT } = s.pc from rfl, hread]
    rfl
  rw [step_of_running hr, hfetch]
  rfl

/-! ## The request chosen -/

/-- The greatest of a level and those of requests. -/
def topLevelFrom (m : Nat) (rs : List Request) : Nat := rs.foldl (fun m r => max m r.level.val) m

theorem topLevel_eq (rs : List Request) : topLevel rs = topLevelFrom 0 rs := rfl

theorem topLevelFrom_cons (m : Nat) (r : Request) (rs : List Request) :
    topLevelFrom m (r :: rs) = topLevelFrom (max m r.level.val) rs := rfl

theorem le_topLevelFrom (rs : List Request) (m : Nat) :
    m ≤ topLevelFrom m rs ∧ ∀ q ∈ rs, q.level.val ≤ topLevelFrom m rs := by
  induction rs generalizing m with
  | nil => exact ⟨Nat.le_refl m, by simp⟩
  | cons r rs ih =>
    obtain ⟨hm, hall⟩ := ih (max m r.level.val)
    rw [topLevelFrom_cons, List.forall_mem_cons]
    exact ⟨(le_max_left _ _).trans hm, (le_max_right _ _).trans hm, hall⟩

theorem topLevelFrom_eq_or_mem (rs : List Request) (m : Nat) :
    topLevelFrom m rs = m ∨ ∃ q ∈ rs, q.level.val = topLevelFrom m rs := by
  induction rs generalizing m with
  | nil => exact .inl rfl
  | cons r rs ih =>
    rw [topLevelFrom_cons]
    obtain h | ⟨q, hq, h⟩ := ih (max m r.level.val)
    · rw [h]
      exact (max_choice m r.level.val).imp_right fun hr => ⟨r, List.mem_cons_self, hr.symm⟩
    · exact .inr ⟨q, List.mem_cons_of_mem _ hq, h⟩

theorem level_le_topLevel {rs : List Request} {q : Request} (h : q ∈ rs) : q.level.val ≤ topLevel rs :=
  (le_topLevelFrom rs 0).2 q h

theorem exists_topLevel {rs : List Request} (h : rs ≠ []) : ∃ q ∈ rs, q.level.val = topLevel rs := by
  obtain h0 | hex := topLevelFrom_eq_or_mem rs 0
  · obtain ⟨q, hq⟩ := List.exists_mem_of_ne_nil rs h
    have hle := level_le_topLevel hq
    rw [topLevel_eq, h0] at hle ⊢
    exact ⟨q, hq, Nat.le_zero.mp hle⟩
  · exact hex

theorem mem_candidates {s : State} {q : Request} : q ∈ candidates s ↔ q ∈ s.pending ∧ s.priority < q.level.val := by
  simp [candidates]

theorem mem_bestCandidates {s : State} {q : Request} :
    q ∈ bestCandidates s ↔ q ∈ candidates s ∧ q.level.val = topLevel (candidates s) := by
  simp [bestCandidates]

/-- The request chosen is one of the best: where there are several, the free choice is an index into them. -/
theorem chooseRequest_mem {s : State} {r : Request} {n : Nat} (h : chooseRequest s = some (r, n)) :
    r ∈ bestCandidates s := by
  unfold chooseRequest at h
  split at h
  · cases h
  · rename_i hb
    cases h
    rw [hb]; exact List.mem_cons_self
  · rename_i p q rs hb
    have hlt : Config.freeChoice s.draws % (rs.length + 2) < (p :: q :: rs).length := Nat.mod_lt _ (by simp)
    rw [List.getElem?_eq_getElem hlt, Option.getD_some] at h
    cases h
    rw [hb]; exact List.getElem_mem hlt

theorem chooseRequest_eq_none {s : State} : chooseRequest s = none ↔ ∀ q ∈ s.pending, q.level.val ≤ s.priority := by
  have hchoose : chooseRequest s = none ↔ bestCandidates s = [] := by
    unfold chooseRequest
    split <;> simp_all
  have hbest : bestCandidates s = [] ↔ candidates s = [] := by
    refine ⟨fun h => by_contra fun hne => ?_, fun h => by rw [bestCandidates, h]; rfl⟩
    obtain ⟨q, hq, htop⟩ := exists_topLevel hne
    have := mem_bestCandidates.mpr ⟨hq, htop⟩
    rw [h] at this
    cases this
  rw [hchoose, hbest, List.eq_nil_iff_forall_not_mem]
  simp only [mem_candidates, not_and, not_lt]

/-- Settles O53: the request chosen is among the candidates of the greatest level. -/
theorem requestChosen : Obligations.RequestChosen := by
  refine fun s => ⟨fun r n h => ?_, chooseRequest_eq_none⟩
  obtain ⟨hr, htop⟩ := mem_bestCandidates.mp (chooseRequest_mem h)
  obtain ⟨hpending, habove⟩ := mem_candidates.mp hr
  refine ⟨hpending, habove, fun q hq => ?_⟩
  obtain hhigh | hlow := Nat.lt_or_ge s.priority q.level.val
  · exact (level_le_topLevel (mem_candidates.mpr ⟨hq, hhigh⟩)).trans htop.ge
  · omega

/-! ## A boundary at which nothing happens -/

/-- With nothing before the interrupts, the boundary is the interrupts (R242). -/
theorem boundary_of_quiet {s : State} (ht : s.traceArmed = false) (hp : s.powerFail = false)
    (hh : s.haltRequest = false) : boundary s = acceptInterrupts s.pending.length s := by
  rw [boundary, unlessHalted_next (traceCheck_of_not ht), onNext_next, unlessHalted_next (powerFailCheck_of_not hp),
    onNext_next, unlessHalted_next (haltCheck_of_not hh), onNext_next]

/-- Settles O7: no check applies, and no request is a candidate. -/
theorem quietBoundaryChangesNothing : Obligations.QuietBoundaryChangesNothing := by
  intro s ht hp hh hpending
  rw [settle, onNext_next, boundary_of_quiet ht hp hh, acceptInterrupts_of_none (chooseRequest_eq_none.mpr hpending)]

/-- A step of a waiting machine is the boundary, where that ends the wait (R204). -/
theorem step_of_waiting {s : State} (hr : s.run = .waiting) (h : ∀ t, boundary s = .next t → t.run ≠ .waiting) :
    step s = boundary s := by
  simp only [step, hr, waitingStep]
  cases hb : boundary s with
  | next t =>
    have hne := h t hb
    rw [onNext_next]
    cases ht : t.run with
    | running => rfl
    | halted => rfl
    | waiting => exact absurd ht hne
  | fault f => rfl
  | refused r => rfl

/-- A step of a waiting machine that goes on waiting is the model's fault (log entry 15). -/
theorem step_of_waiting_quiet {s : State} (hr : s.run = .waiting) (h : boundary s = .next s) :
    step s = .fault .waitsForever := by
  simp only [step, hr, waitingStep, h, onNext_next]

/-- Settles O6: a quiet boundary leaves a waiting machine waiting. -/
theorem stoppedMachineMakesNoStep : Obligations.StoppedMachineMakesNoStep :=
  ⟨fun s hr => by simp only [step, hr, haltedStep],
    fun s hr ht hp hh hpending => step_of_waiting_quiet hr (quietBoundaryChangesNothing s ht hp hh hpending)⟩

/-! ## What trap entry leaves for the boundary -/

/-- The events waiting are the same. -/
def SameEvents (s u : State) : Prop :=
  u.traceArmed = s.traceArmed ∧ u.powerFail = s.powerFail ∧ u.haltRequest = s.haltRequest ∧ u.pending = s.pending

theorem sameEvents_closed (s : State) : Closed (SameEvents s) where
  regs _ _ h := h
  draws _ _ h := h
  flags _ _ h := h
  transfers _ _ _ h := h
  store _ _ _ _ h := h

/-- Trap entry takes no event and no request, also where it ends in a double fault. -/
theorem trapEntry_sameEvents {s t : State} {v : Word} (h : trapEntry v s = .next t) : SameEvents s t := by
  have hv := enterVector_holds (sameEvents_closed s) (fun _ _ h => h) (fun _ _ h => h) (s := s) ⟨rfl, rfl, rfl, rfl⟩ v
  obtain hok | ⟨e, u, hexn, rfl⟩ := trapEntry_next h
  · rw [hok] at hv; exact hv
  · rw [hexn] at hv; exact hv

/-- After trap entry the processor runs, or is halted by a double fault. -/
theorem trapEntry_run {s t : State} {v : Word} (h : trapEntry v s = .next t) : t.run ≠ .waiting := by
  obtain hok | ⟨e, u, hexn, rfl⟩ := trapEntry_next h
  · obtain ⟨_, _, _, _, _, _, _, _, _, _, _, rfl⟩ := enterVector_ok hok
    simp
  · simp

theorem traceCheck_run {s t : State} (hs : s.run ≠ .waiting) (h : traceCheck s = .next t) : t.run ≠ .waiting := by
  unfold traceCheck at h
  split at h
  · exact trapEntry_run h
  · cases h; exact hs

theorem powerFailCheck_run {s t : State} (hs : s.run ≠ .waiting) (h : powerFailCheck s = .next t) :
    t.run ≠ .waiting := by
  unfold powerFailCheck at h
  split at h
  · exact trapEntry_run h
  · cases h; exact hs

theorem haltCheck_run {s t : State} (hs : s.run ≠ .waiting) (h : haltCheck s = .next t) : t.run ≠ .waiting := by
  unfold haltCheck at h
  split at h
  · cases h; simp
  · cases h; exact hs

/-- No event of the boundary makes a machine wait. -/
theorem boundary_run {s t : State} (hs : s.run ≠ .waiting) (h : boundary s = .next t) : t.run ≠ .waiting := by
  obtain ⟨s1, s2, s3, h1, h2, h3, h4⟩ := boundary_next h
  have k1 : s1.run ≠ .waiting := unlessHalted_keeps (P := (·.run ≠ .waiting)) hs (fun _ => traceCheck_run hs) h1
  have k2 : s2.run ≠ .waiting := unlessHalted_keeps (P := (·.run ≠ .waiting)) k1 (fun _ => powerFailCheck_run k1) h2
  have k3 : s3.run ≠ .waiting := unlessHalted_keeps (P := (·.run ≠ .waiting)) k2 (fun _ => haltCheck_run k2) h3
  exact acceptInterrupts_keeps (P := (·.run ≠ .waiting)) (fun _ _ _ _ _ _ h => trapEntry_run h) _ k3 h4

/-! ## Interrupts -/

theorem acceptInterrupts_of_halted {s : State} (h : s.run = .halted) (k : Nat) : acceptInterrupts k s = .next s := by
  cases k with
  | zero => rfl
  | succ k => exact unlessHalted_of_halted h

theorem acceptInterrupts_of_chosen {s : State} {r : Request} {n : Nat} (hr : s.run ≠ .halted)
    (h : chooseRequest s = some (r, n)) (k : Nat) :
    acceptInterrupts (k + 1) s = onNext (acceptRequest r n s) (acceptInterrupts k) := by
  rw [acceptInterrupts, unlessHalted_of_ne hr]
  simp only [h]

theorem chosen_pending {s : State} {r : Request} {n : Nat} (h : chooseRequest s = some (r, n)) : r ∈ s.pending :=
  (mem_candidates.mp (mem_bestCandidates.mp (chooseRequest_mem h)).1).1

/-- Accepting a request leaves fewer. -/
theorem acceptRequest_pending {s t : State} {r : Request} {n : Nat} (h : chooseRequest s = some (r, n))
    (ht : acceptRequest r n s = .next t) : t.pending.length < s.pending.length := by
  obtain ⟨-, -, -, hpending⟩ := trapEntry_sameEvents ht
  rw [hpending]
  exact List.length_filter_lt_length_iff_exists.mpr ⟨r, chosen_pending h, by simp⟩

theorem onNext_congr {x : Out} {k l : State → Out} (h : ∀ t, x = .next t → k t = l t) : onNext x k = onNext x l := by
  cases x with
  | next t => exact h t rfl
  | fault f => rfl
  | refused r => rfl

/-- Any fuel not below the number of requests accepts the same (R245). -/
theorem acceptInterrupts_fuel (k : Nat) : ∀ (m : Nat) (s : State), s.pending.length ≤ k → s.pending.length ≤ m →
    acceptInterrupts k s = acceptInterrupts m s := by
  induction k with
  | zero =>
    intro m s hk _
    have hempty : s.pending = [] := List.length_eq_zero_iff.mp (Nat.le_zero.mp hk)
    have hnone : chooseRequest s = none := chooseRequest_eq_none.mpr (by simp [hempty])
    rw [acceptInterrupts_of_none hnone, acceptInterrupts_of_none hnone]
  | succ k ih =>
    intro m s hk hm
    by_cases hr : s.run = .halted
    · rw [acceptInterrupts_of_halted hr, acceptInterrupts_of_halted hr]
    cases hc : chooseRequest s with
    | none => rw [acceptInterrupts_of_none hc, acceptInterrupts_of_none hc]
    | some c =>
      obtain ⟨r, n⟩ := c
      obtain ⟨m, rfl⟩ : ∃ j, m = j + 1 := Nat.exists_eq_add_one.mpr
        ((List.length_pos_of_mem (chosen_pending hc)).trans_le hm)
      rw [acceptInterrupts_of_chosen hr hc, acceptInterrupts_of_chosen hr hc]
      refine onNext_congr fun t ht => ?_
      have := acceptRequest_pending hc ht
      exact ih m t (by omega) (by omega)

/-! ## The order of the events -/

theorem boundary_trace {s : State} (hr : s.run ≠ .halted) (ht : s.traceArmed = true) :
    boundary s = onNext (trapEntry s.params.vectors.trace { s with traceArmed := false }) boundary := by
  rw [boundary, unlessHalted_of_ne hr, traceCheck, if_pos ht]
  refine onNext_congr fun t h => ?_
  obtain ⟨htrace, -⟩ := trapEntry_sameEvents h
  rw [boundary, unlessHalted_next (traceCheck_of_not htrace), onNext_next]

theorem boundary_powerFail {s : State} (hr : s.run ≠ .halted) (ht : s.traceArmed = false) (hp : s.powerFail = true) :
    boundary s = onNext (trapEntry s.params.vectors.powerFail { s with powerFail := false }) boundary := by
  rw [boundary, unlessHalted_next (traceCheck_of_not ht), onNext_next, unlessHalted_of_ne hr, powerFailCheck, if_pos hp]
  refine onNext_congr fun t h => ?_
  obtain ⟨htrace, hpower, -⟩ := trapEntry_sameEvents h
  rw [boundary, unlessHalted_next (traceCheck_of_not (htrace.trans ht)), onNext_next,
    unlessHalted_next (powerFailCheck_of_not hpower), onNext_next]

theorem boundary_haltRequest {s : State} (hr : s.run ≠ .halted) (ht : s.traceArmed = false) (hp : s.powerFail = false)
    (hh : s.haltRequest = true) : boundary s = .next { s with run := .halted, haltRequest := false } := by
  rw [boundary, unlessHalted_next (traceCheck_of_not ht), onNext_next, unlessHalted_next (powerFailCheck_of_not hp),
    onNext_next, unlessHalted_of_ne hr, haltCheck, if_pos hh, onNext_next, acceptInterrupts_of_halted rfl]

theorem boundary_interrupt {s : State} {r : Request} {n : Nat} (hr : s.run ≠ .halted) (ht : s.traceArmed = false)
    (hp : s.powerFail = false) (hh : s.haltRequest = false) (hc : chooseRequest s = some (r, n)) :
    boundary s = onNext (acceptRequest r n s) boundary := by
  rw [boundary_of_quiet ht hp hh]
  obtain ⟨k, hk⟩ : ∃ k, s.pending.length = k + 1 :=
    Nat.exists_eq_add_one.mpr (List.length_pos_of_mem (chosen_pending hc))
  rw [hk, acceptInterrupts_of_chosen hr hc]
  refine onNext_congr fun t h => ?_
  obtain ⟨htrace, hpower, hhalt, -⟩ := trapEntry_sameEvents h
  have hlt := acceptRequest_pending hc h
  rw [boundary_of_quiet (htrace.trans ht) (hpower.trans hp) (hhalt.trans hh)]
  exact acceptInterrupts_fuel _ _ t (by omega) (Nat.le_refl _)

/-- Settles O55: trap entry keeps the events still waiting, so that what follows it is a whole boundary. -/
theorem boundaryEventsTaken : Obligations.BoundaryEventsTaken := by
  intro s newPc newPs hr
  refine ⟨boundary_trace hr, boundary_powerFail hr, boundary_haltRequest hr,
    fun ht hp hh r n hc => boundary_interrupt hr ht hp hh hc, fun hi ht hp hh hq h => ?_, fun hi ht hp hh hq h => ?_⟩
  · obtain ⟨t, hentry, henters, hpending, harmed⟩ :=
      trapEntry_of_ready (s := { s with traceArmed := false }) hi.1 (h.congr rfl rfl rfl rfl)
    refine ⟨t, ?_, henters, harmed⟩
    rw [settle, onNext_next, boundary_trace hr ht, hentry]
    obtain ⟨-, -, -, -, -, -, -, -, hpower, hhalt, -⟩ := henters
    exact quietBoundaryChangesNothing t harmed (hpower.trans hp) (hhalt.trans hh) (by simp [hpending, hq])
  · obtain ⟨t, hentry, henters, hpending, harmed⟩ :=
      trapEntry_of_ready (s := { s with powerFail := false }) hi.1 (h.congr rfl rfl rfl rfl)
    refine ⟨t, ?_, henters⟩
    rw [settle, onNext_next, boundary_powerFail hr ht hp, hentry]
    obtain ⟨-, -, -, -, -, -, -, -, hpower, hhalt, -⟩ := henters
    exact quietBoundaryChangesNothing t (harmed.trans ht) hpower (hhalt.trans hh) (by simp [hpending, hq])

/-- Settles O54: the boundary goes on from the state the entry left, which does not wait. -/
theorem interruptTaken : Obligations.InterruptTaken := by
  intro s r n newPc newPs hi ht hp hh s1
  refine ⟨fun hc hr h => ?_, fun hlow => ?_⟩
  · obtain ⟨t, hentry, henters, hpending, harmed⟩ := trapEntry_of_ready (s := s1) hi.1 (h.congr rfl rfl rfl rfl)
    have hsettle : settle (.next s) = settle (.next t) := by
      rw [settle, onNext_next, boundary_interrupt hr ht hp hh hc, acceptRequest, withoutRequest, hentry]
      rfl
    obtain ⟨hpower, hhalt⟩ : t.powerFail = s1.powerFail ∧ t.haltRequest = s1.haltRequest := by
      obtain ⟨-, -, -, -, -, -, -, -, hpower, hhalt, -⟩ := henters
      exact ⟨hpower, hhalt⟩
    refine ⟨t, henters, hpending, by simp [hpending, s1], hsettle, fun hlow => ?_, fun hw => ?_⟩
    · rw [hsettle]
      exact quietBoundaryChangesNothing t (harmed.trans ht) (hpower.trans hp) (hhalt.trans hh)
        (by rw [hpending]; exact hlow)
    · rw [← hsettle]
      refine step_of_waiting hw fun u hu => ?_
      rw [show boundary s = boundary t from hsettle] at hu
      exact boundary_run (trapEntry_run hentry) hu
  · have hquiet := quietBoundaryChangesNothing s ht hp hh hlow
    exact ⟨hquiet, fun hw => step_of_waiting_quiet hw hquiet⟩

end Sys2Proof.Machine
end

section
/-! The Extended Instruction Set (R112 to R123). -/

namespace Sys2Proof.Machine

theorem requireEis_present {α : Type} {m : String} {s : State} (h : s.params.eisPresent = true) (x : Res α) :
    requireEis m s x = x := if_pos h

theorem requireEis_absent {α : Type} {m : String} {s : State} (h : s.params.eisPresent = false) (x : Res α) :
    requireEis m s x = .refused (.eisAbsent m) := if_neg (by rw [h]; decide)

/-- Settles O60: `requireEis` refuses, and the other words have no meaning. -/
theorem refusedWords : Obligations.RefusedWords := by
  intro s reg o nn x
  have absent {i : Instr} {m : String} {y : Res Unit} (h : s.params.eisPresent = false)
      (hexec : exec i s = finish (requireEis m s y)) : exec i s = .refused (.eisAbsent m) := by
    rw [hexec, requireEis_absent h, finish_refused]
  exact ⟨fun h => ⟨absent h rfl, absent h rfl, absent h rfl, absent h rfl, absent h rfl, absent h rfl⟩, rfl, rfl, rfl,
    rfl, rfl⟩

/-! ## XOR and SOB -/

theorem exec_sob {s : State} (h : s.params.eisPresent = true) (reg : Reg) (nn : BitVec 6) :
    exec (.sob reg nn) s = .next (if s.reg reg = 1#16 then s.setReg reg 0#16
      else (s.setReg reg (s.reg reg - 1#16)).setReg .r7
        ((s.setReg reg (s.reg reg - 1#16)).pc - 2#16 * nn.setWidth 16)) := by
  have hzero : s.reg reg - 1#16 = 0#16 ↔ s.reg reg = 1#16 := by
    rw [BitVec.sub_eq_iff_eq_add, BitVec.zero_add]
  change finish (requireEis "SOB" s (if (s.setReg reg _).reg reg = 0#16 then _ else _)) = _
  rw [requireEis_present h, State.reg_setReg_same]
  simp only [hzero]
  split_ifs with h1
  · rw [h1]; rfl
  · rfl

/-- Settles O59: XOR is a read-modify-write instruction; SOB branches unless the result is 0. -/
theorem xorAndSobResults : Obligations.XorAndSobResults := by
  refine ⟨fun s s1 s2 reg dst d l hi heis h1 h2 h3 => ?_, fun s reg nn heis h7 => ?_, fun s nn heis => ?_⟩
  · have hexec : exec (.xor reg dst) s = finish (modifyWord (xorOp (s.reg reg)) dst s) := by
      change finish (requireEis "XOR" s _) = _
      rw [requireEis_present heis]
    exact modifyWord_outcome hi h1 h2 h3 hexec rfl
  · rw [exec_sob heis]
    simp [State.reg_setReg, h7.symm]
  · rw [exec_sob heis, State.setReg_setReg, State.pc_eq_reg, State.reg_setReg_same]; rfl

/-! ## Register pairs -/

section Pairs

variable (s : State) (r : Reg) (v : BitVec 32)

theorem setPair_low : (s.setPair r v).reg (oddPartner r) = v.extractLsb' 0 16 := State.reg_setReg_same _ _ _

theorem setPair_high (h : oddPartner r ≠ r) : (s.setPair r v).reg r = v.extractLsb' 16 16 := by
  rw [State.setPair, State.reg_setReg, if_neg h.symm, State.reg_setReg_same]

theorem setPair_pair (h : oddPartner r ≠ r) :
    (s.setPair r v).reg r ++ (s.setPair r v).reg (oddPartner r) = v := by
  rw [setPair_low, setPair_high s r v h]
  exact BitVec.extractLsb'_append_extractLsb' (w := 16) (len := 16) (x := v)

theorem setPair_of_ne {q : Reg} (h : q ≠ r) (ho : q ≠ oddPartner r) : (s.setPair r v).reg q = s.reg q := by
  rw [State.setPair, State.reg_setReg, if_neg ho, State.reg_setReg, if_neg h]

theorem setPair_moved {t : State} (h : Moved t s) : Moved t (s.setPair r v) := (h.setReg _ _).setReg _ _

end Pairs

theorem msb_pair (a b : Word) : (a ++ b).msb = a.msb := BitVec.msb_append

theorem pair_eq_zero {a b : Word} : a ++ b = 0#32 ↔ a = 0#16 ∧ b = 0#16 := by
  rw [← BitVec.toNat_inj, ← BitVec.toNat_inj, ← BitVec.toNat_inj, toNat_append_add]
  have : (0#32).toNat = 0 ∧ (0#16).toNat = 0 := ⟨rfl, rfl⟩
  omega

/-- Registers written and then the flags: what stays as it was. -/
theorem setFlags_outcome {s u : State} (hi : s.Inv) (hm : Moved s u) (f : Flags) :
    (u.setFlags f).flags = f ∧ SameMemory s (u.setFlags f) ∧ SamePsButFlags s (u.setFlags f) ∧
      SameControl s (u.setFlags f) := by
  refine ⟨State.flags_setFlags _ _ (hm.params ▸ Params.wf_mask hi.1), hm.memory, ?_, hm.sameControl⟩
  rw [SamePsButFlags, State.setFlags_rest _ _ (by rw [hm.ps, hm.params]; exact hi.2.2.2.1), hm.ps]

/-! ## MUL -/

theorem extract_ofInt (p : Int) : (BitVec.ofInt 32 p).extractLsb' 0 16 = BitVec.ofInt 16 p := by
  apply BitVec.eq_of_toNat_eq
  simp only [BitVec.extractLsb'_toNat, BitVec.toNat_ofInt]
  omega

/-- Settles O56: a product of two words fits in 32 bits. -/
theorem mulResult : Obligations.MulResult := by
  intro s s1 reg src v hi heis h p
  obtain ⟨hmoved, -⟩ := readOperandWord_moved h
  have hexec : exec (.mul reg src) s = .next ((s1.setPair reg (BitVec.ofInt 32 p)).setFlags (mulFlags p)) := by
    change finish (requireEis "MUL" s _) = _
    rw [requireEis_present heis, h, Res.bind_ok]; rfl
  obtain ⟨hflags, hmem, hps, hctl⟩ := setFlags_outcome hi (setPair_moved s1 reg (BitVec.ofInt 32 p) hmoved) (mulFlags p)
  have hle : p ≤ 2 ^ 30 := BitVec.toInt_mul_toInt_le
  have hge : -2 ^ 30 ≤ p := BitVec.le_toInt_mul_toInt
  refine ⟨_, hexec, fun hne => ?_, ?_, hflags, fun q hq ho => setPair_of_ne s1 reg _ hq ho, hmem, hps, hctl⟩
  · rw [State.reg_setFlags, State.reg_setFlags, setPair_pair s1 reg _ hne,
      BitVec.toInt_ofInt_eq_self (by decide) (by omega) (by omega)]
  · rw [State.reg_setFlags, setPair_low, extract_ofInt]

/-! ## DIV -/

theorem tmod_sign {a b : Int} : (a.tmod b < 0 → a < 0) ∧ (0 < a.tmod b → 0 < a) := by
  refine ⟨fun h => ?_, fun h => ?_⟩
  · by_contra hn
    exact absurd (Int.tmod_nonneg b (not_lt.mp hn)) (by omega)
  · by_contra hn
    have := Int.tmod_nonneg (a := -a) b (by omega)
    rw [Int.neg_tmod] at this
    omega

theorem exec_div {s s1 : State} {reg : Reg} {src : Operand} {v : Word} (heis : s.params.eisPresent = true)
    (ho : oddPartner reg ≠ reg) (h : readOperandWord src s = .ok v s1) :
    exec (.div reg src) s = .next (divideInto reg v s1) := by
  change finish (requireEis "DIV" s (if isEvenReg reg = true then _ else _)) = _
  rw [requireEis_present heis, if_pos (by simp [isEvenReg, ho]), h, Res.bind_ok]; rfl

theorem divideInto_undefined {s : State} {reg : Reg} {v : Word}
    (h : v = 0#16 ∨ quotientOverflows ((s.pair reg).toInt.tdiv v.toInt) = true) :
    divideInto reg v s = s.divideUndefined reg (decide (v = 0#16)) := by
  rw [divideInto]
  split_ifs with h0
  · simp [h0]
  · simp [h0, h.resolve_left h0]

/-- The state after a DIV with quotient `q` and remainder `m` (R115). -/
def State.divided (s : State) (reg : Reg) (q m : Int) : State :=
  ((s.setReg reg (BitVec.ofInt 16 q)).setReg (oddPartner reg) (BitVec.ofInt 16 m)).setFlags
    { n := decide (q < 0), z := decide (q = 0), v := false, c := false }

theorem divideInto_defined {s : State} {reg : Reg} {v : Word} (h0 : v ≠ 0#16)
    (h : ¬ quotientOverflows ((s.pair reg).toInt.tdiv v.toInt) = true) :
    divideInto reg v s = s.divided reg ((s.pair reg).toInt.tdiv v.toInt) ((s.pair reg).toInt.tmod v.toInt) := by
  rw [divideInto, if_neg h0]
  exact if_neg h

/-- A number of 16 signed bits is the value of its word. -/
theorem toInt_ofInt_word {x : Int} (hlo : -32768 ≤ x) (hhi : x ≤ 32767) : (BitVec.ofInt 16 x).toInt = x :=
  BitVec.toInt_ofInt_eq_self (by decide) (by omega) (by omega)

theorem natAbs_tmod_lt {a : Int} (v : Word) (h0 : v ≠ 0#16) : (a.tmod v.toInt).natAbs < v.toInt.natAbs := by
  rw [Int.natAbs_tmod]
  exact Nat.mod_lt _ (Int.natAbs_pos.mpr fun h => h0 (by rw [← BitVec.toInt_inj, h]; rfl))

/-- The remainder by a word is the value of its word. -/
theorem toInt_tmod {a : Int} (v : Word) (h0 : v ≠ 0#16) :
    (BitVec.ofInt 16 (a.tmod v.toInt)).toInt = a.tmod v.toInt := by
  have hlt := natAbs_tmod_lt (a := a) v h0
  have hlo : -2 ^ 15 ≤ v.toInt := v.le_toInt
  have hhi : v.toInt < 2 ^ 15 := v.toInt_lt
  exact toInt_ofInt_word (by omega) (by omega)

/-- What DIV leaves where its result is not specified (R115, log entry 10). -/
theorem divideUndefined_outcome {s s1 : State} (hi : s.Inv) (hm : Moved s s1) (reg : Reg) (c : Bool) :
    (∀ q, q ≠ reg → q ≠ oddPartner reg → (s1.divideUndefined reg c).reg q = s1.reg q) ∧
      SameMemory s (s1.divideUndefined reg c) ∧ SamePsButFlags s (s1.divideUndefined reg c) ∧
      SameControl s (s1.divideUndefined reg c) ∧ (s1.divideUndefined reg c).flagV = true ∧
      (s1.divideUndefined reg c).flagC = c := by
  have hu := (hm.setReg reg (Config.freeWord s1.draws)).setReg (oddPartner reg) (Config.freeWord (s1.draws + 1))
  obtain ⟨hflags, hmem, hps, hctl⟩ := setFlags_outcome hi hu
    { n := Config.freeBit s1.draws, z := Config.freeBit (s1.draws + 1), v := true, c := c }
  refine ⟨fun q hq ho => ?_, hmem, hps, hctl, congrArg Flags.v hflags, congrArg Flags.c hflags⟩
  exact (State.reg_setReg _ _ _ _).trans ((if_neg ho).trans ((State.reg_setReg _ _ _ _).trans (if_neg hq)))

/-- What DIV leaves where quotient and remainder fit in words. -/
theorem divided_outcome {s s1 : State} (hi : s.Inv) (hm : Moved s s1) {reg : Reg} (ho : oddPartner reg ≠ reg)
    {q m : Int} (hq : (BitVec.ofInt 16 q).toInt = q) (hr : (BitVec.ofInt 16 m).toInt = m) :
    (∀ p, p ≠ reg → p ≠ oddPartner reg → (s1.divided reg q m).reg p = s1.reg p) ∧ SameMemory s (s1.divided reg q m) ∧
      SamePsButFlags s (s1.divided reg q m) ∧ SameControl s (s1.divided reg q m) ∧
      ((s1.divided reg q m).reg reg).toInt = q ∧ ((s1.divided reg q m).reg (oddPartner reg)).toInt = m ∧
      (s1.divided reg q m).flags = ⟨decide (q < 0), decide (q = 0), false, false⟩ := by
  obtain ⟨hflags, hmem, hps, hctl⟩ := setFlags_outcome hi ((hm.setReg reg (BitVec.ofInt 16 q)).setReg (oddPartner reg)
    (BitVec.ofInt 16 m)) { n := decide (q < 0), z := decide (q = 0), v := false, c := false }
  refine ⟨fun p hp hpo => ?_, hmem, hps, hctl, ?_, ?_, hflags⟩
  · rw [State.divided, State.reg_setFlags, State.reg_setReg, if_neg hpo, State.reg_setReg, if_neg hp]
  · rw [State.divided, State.reg_setFlags, State.reg_setReg, if_neg ho.symm, State.reg_setReg_same, hq]
  · rw [State.divided, State.reg_setFlags, State.reg_setReg_same, hr]

/-- Settles O57: the unspecified cases, and the case where quotient and remainder fit in words. -/
theorem divResult : Obligations.DivResult := by
  intro s s1 reg src v hi heis
  refine ⟨fun ho => ?_, fun ho h => ?_⟩
  · change finish (requireEis "DIV" s (if isEvenReg reg = true then _ else _)) = _
    rw [requireEis_present heis, if_neg (by simp [isEvenReg, ho])]; rfl
  intro dividend
  obtain ⟨hmoved, -⟩ := readOperandWord_moved h
  rw [exec_div heis ho h]
  by_cases hundef : v = 0#16 ∨ quotientOverflows (dividend.tdiv v.toInt) = true
  · rw [divideInto_undefined hundef]
    obtain ⟨hregs, hmem, hps, hctl, hv, hc⟩ := divideUndefined_outcome hi hmoved reg (decide (v = 0#16))
    refine ⟨_, rfl, hregs, hmem, hps, hctl, fun h0 => ⟨hv, ?_⟩, fun h0 _ => ⟨hv, ?_⟩, fun h0 hlo hhi => ?_⟩
    · rw [hc]; simp [h0]
    · rw [hc]; simp [h0]
    · have hover := hundef.resolve_left h0
      simp only [quotientOverflows, decide_eq_true_eq] at hover
      omega
  · obtain ⟨h0, hover⟩ := not_or.mp hundef
    have hrange : ¬ (dividend.tdiv v.toInt < -32768 ∨ 32767 < dividend.tdiv v.toInt) := by
      simpa [quotientOverflows] using hover
    rw [show divideInto reg v s1 = s1.divided reg (dividend.tdiv v.toInt) (dividend.tmod v.toInt) from
      divideInto_defined h0 hover]
    obtain ⟨hregs, hmem, hps, hctl, hq, hm, hflags⟩ := divided_outcome hi hmoved ho
      (toInt_ofInt_word (x := dividend.tdiv v.toInt) (by omega) (by omega)) (toInt_tmod (a := dividend) v h0)
    refine ⟨_, rfl, hregs, hmem, hps, hctl, fun h => absurd h h0, fun _ h => absurd h hrange, fun _ _ _ => ?_⟩
    rw [hq, hm]
    exact ⟨(Int.tdiv_mul_add_tmod _ _).symm, natAbs_tmod_lt v h0, tmod_sign.1, tmod_sign.2, hflags⟩

/-! ## ASH and ASHC -/

theorem shiftLeft_eq_ofInt {w : Nat} (v : BitVec w) (k : Nat) : v <<< k = BitVec.ofInt w (v.toInt * 2 ^ k) := by
  rw [BitVec.ofInt_mul, BitVec.ofInt_toInt, BitVec.shiftLeft_eq_mul_twoPow]
  congr 1
  rw [show (2 : Int) ^ k = ((2 ^ k : Nat) : Int) by norm_cast, BitVec.ofInt_natCast]
  apply BitVec.eq_of_toNat_eq
  simpa using Nat.pow_mod 2 k (2 ^ w)

/-- A shift by a signed count, as the arithmetic of its three cases (R116, R117). -/
theorem arithShift_outcome {n : Nat} (x : BitVec (n + 1)) (count : BitVec 6) :
    let k := count.toInt
    let r := arithShift x count
    r.2.n = r.1.msb ∧ r.2.z = decide (r.1 = 0#(n + 1)) ∧
      (0 ≤ k → r.1 = BitVec.ofInt (n + 1) (x.toInt * 2 ^ k.toNat) ∧
        (r.2.v = true ↔ Overflows n (x.toInt * 2 ^ k.toNat)) ∧
        r.2.c = (decide (0 < k ∧ k ≤ (n + 1 : Nat)) && x.getLsbD (n + 1 - k.toNat))) ∧
      (k < 0 → r.1.toInt = x.toInt / 2 ^ (-k).toNat ∧ r.2.v = false ∧
        r.2.c = if (-k).toNat ≤ n + 1 then x.getLsbD ((-k).toNat - 1) else x.msb) := by
  intro k r
  have hk : k = if count.msb = true then (count.toNat : Int) - 64 else count.toNat := BitVec.toInt_eq_msb_cond count
  have hlt := count.isLt
  by_cases h0 : count = 0#6
  · have hk0 : k = 0 := by rw [show k = count.toInt from rfl, h0]; rfl
    have hr : r = (x, resultFlags x false) := if_pos h0
    rw [hr, hk0]
    have hlo : -2 ^ n ≤ x.toInt := by simpa using x.le_toInt
    have hhi : x.toInt < 2 ^ n := by simpa using x.toInt_lt
    refine ⟨rfl, rfl, fun _ => ⟨by simp, ?_, by simp [resultFlags]⟩, fun h => absurd h (lt_irrefl 0)⟩
    simp [resultFlags, Overflows, hlo, hhi]
  cases hm : count.msb with
  | true =>
    have hr : r = shiftRightBy x (64 - count.toNat) := by
      rw [show r = arithShift x count from rfl, arithShift, if_neg h0, if_pos hm]
    have hneg : k < 0 := by rw [hk, if_pos hm]; omega
    have hnat : 64 - count.toNat = (-k).toNat := by rw [hk, if_pos hm]; omega
    rw [hr, hnat]
    refine ⟨rfl, rfl, fun h => absurd h (by omega), fun _ => ⟨?_, rfl, rfl⟩⟩
    rw [shiftRightBy, BitVec.toInt_sshiftRight, Int.shiftRight_eq_div_pow]
    norm_cast
  | false =>
    have hr : r = shiftLeftBy x count.toNat := by
      rw [show r = arithShift x count from rfl, arithShift, if_neg h0, if_neg (by simp [hm])]
    have hkn : k = count.toNat := by rw [hk, if_neg (by simp [hm])]
    have hpos : 0 < count.toNat := Nat.pos_of_ne_zero fun h => h0 (BitVec.eq_of_toNat_eq h)
    rw [hr, hkn]
    refine ⟨rfl, rfl, fun _ => ⟨shiftLeft_eq_ofInt _ _, (signChanges_iff x count.toNat).1, ?_⟩,
      fun h => absurd h (by omega)⟩
    have hc : decide ((0 : Int) < count.toNat ∧ (count.toNat : Int) ≤ (n + 1 : Nat)) = decide (count.toNat ≤ n + 1) :=
      decide_eq_decide.mpr (by omega)
    rw [hc, Int.toNat_natCast]
    rfl

/-- The end of ASH and ASHC: registers written with the value shifted, and its flags. -/
theorem flags_of_shift {t : State} {f : Flags} (h : t.flags = f) :
    t.flagN = f.n ∧ t.flagZ = f.z ∧ t.flagV = f.v ∧ t.flagC = f.c := by
  subst h
  exact ⟨rfl, rfl, rfl, rfl⟩

/-- Settles O58: both are `arithShift`, at the width of a word and of a pair. -/
theorem arithmeticShiftResults : Obligations.ArithmeticShiftResults := by
  intro s s1 reg src v hi heis h k
  obtain ⟨hmoved, -⟩ := readOperandWord_moved h
  refine ⟨?ash, fun ho => ?refused, fun ho => ?ashc⟩
  case ash =>
    intro x
    set r := arithShift x (v.extractLsb' 0 6)
    have hexec : exec (.ash reg src) s = .next ((s1.setReg reg r.1).setFlags r.2) := by
      change finish (requireEis "ASH" s _) = _
      rw [requireEis_present heis, h, Res.bind_ok]; rfl
    obtain ⟨hn, hz, hleft, hright⟩ := arithShift_outcome (n := 15) x (v.extractLsb' 0 6)
    obtain ⟨hflags, hmem, hps, hctl⟩ := setFlags_outcome hi (hmoved.setReg reg r.1) r.2
    obtain ⟨fn, fz, fv, fc⟩ := flags_of_shift hflags
    refine ⟨_, hexec, fun q hq => ?_, hmem, hps, hctl, ?_⟩
    · rw [State.reg_setFlags, State.reg_setReg, if_neg hq]
    · rw [State.reg_setFlags, State.reg_setReg_same, fn, fz, fv, fc]
      exact ⟨hn, hz, hleft, hright⟩
  case refused =>
    change finish (requireEis "ASHC" s (if isEvenReg reg = true then _ else _)) = _
    rw [requireEis_present heis, if_neg (by simp [isEvenReg, ho])]; rfl
  case ashc =>
    intro x
    set r := arithShift x (v.extractLsb' 0 6)
    have hexec : exec (.ashc reg src) s = .next ((s1.setPair reg r.1).setFlags r.2) := by
      change finish (requireEis "ASHC" s (if isEvenReg reg = true then _ else _)) = _
      rw [requireEis_present heis, if_pos (by simp [isEvenReg, ho]), h, Res.bind_ok]; rfl
    obtain ⟨hn, hz, hleft, hright⟩ := arithShift_outcome (n := 31) x (v.extractLsb' 0 6)
    obtain ⟨hflags, hmem, hps, hctl⟩ := setFlags_outcome hi (setPair_moved s1 reg r.1 hmoved) r.2
    obtain ⟨fn, fz, fv, fc⟩ := flags_of_shift hflags
    have hpair := setPair_pair s1 reg r.1 ho
    refine ⟨_, hexec, fun q hq hqo => setPair_of_ne s1 reg r.1 hq hqo, hmem, hps, hctl, ?_⟩
    have hlo : -2 ^ 5 ≤ k := BitVec.le_toInt _
    have hhi : k < 2 ^ 5 := BitVec.toInt_lt
    have hleftC : decide (0 < k ∧ k ≤ (31 + 1 : Nat)) = decide (0 < k) := decide_eq_decide.mpr (by omega)
    have hrightC : (-k).toNat ≤ 31 + 1 := by omega
    rw [State.reg_setFlags, State.reg_setFlags, fn, fz, fv, fc, hpair]
    refine ⟨?_, ?_, ?_, ?_⟩
    · exact hn.trans ((congrArg BitVec.msb hpair).symm.trans (msb_pair _ _))
    · rw [hz]
      exact decide_eq_decide.mpr ((iff_of_eq (congrArg (· = 0#32) hpair)).symm.trans pair_eq_zero)
    · rw [hleftC] at hleft; exact hleft
    · rw [if_pos hrightC] at hright; exact hright

end Sys2Proof.Machine
end

section
/-! The state after reset, and the start state of R263 (R24, R261, R263). -/

namespace Sys2Proof.Machine

/-- What a start state requires, condition by condition (R263). -/
theorem State.starts_iff {s : State} {l : Layout} :
    s.starts l = true ↔ isOdd s.pc = false ∧ s.mem.holdsWords s.pc.toNat l.program = true ∧ isOdd s.sp = false ∧
      s.stackFits l = true ∧ s.flagT = false ∧ s.run = .running ∧ s.pending = [] := by
  simp only [State.starts, Bool.and_eq_true, Bool.not_eq_true', decide_eq_true_eq, List.isEmpty_iff, and_assoc]

/-- Whether the stack fits depends on the PC, SP and the parameters. -/
theorem State.stackFits_congr {s t : State} (l : Layout) (hpc : t.pc = s.pc) (hsp : t.sp = s.sp)
    (hp : t.params = s.params) : t.stackFits l = s.stackFits l := by
  simp only [State.stackFits, State.stackSpan, State.programSpan, hpc, hsp, hp]

theorem Span.disjoint_iff {x y : Span} :
    x.disjoint y = true ↔ x.base + x.size ≤ y.base ∨ y.base + y.size ≤ x.base := by
  simp [Span.disjoint]

/-- A byte of a span is not one of a disjoint span. -/
theorem Span.outside_of_disjoint {x y : Span} (h : x.disjoint y = true) {a : Nat} (hlo : x.base ≤ a)
    (hhi : a < x.base + x.size) : a < y.base ∨ y.base + y.size ≤ a := by
  obtain h | h := Span.disjoint_iff.mp h
  · exact .inl (by omega)
  · exact .inr (by omega)

/-- The bytes of a stack that fits are RAM, above the vectors, and apart from program and data. -/
theorem State.stack_bytes {s : State} {l : Layout} (h : s.stackFits l = true) {x : Nat}
    (hlo : s.sp.toNat - l.stackSize ≤ x) (hhi : x < s.sp.toNat) :
    x < s.params.ramTop ∧ 0o400 ≤ x ∧ (x < s.pc.toNat ∨ s.pc.toNat + 2 * l.program.length ≤ x) ∧
      ∀ d ∈ l.data, x < d.base ∨ d.base + d.size ≤ x := by
  simp only [State.stackFits, Bool.and_eq_true, decide_eq_true_eq, List.all_eq_true] at h
  obtain ⟨⟨⟨⟨hsize, htop⟩, hprogram⟩, hvector⟩, hdata⟩ := h
  have hx : x < (s.stackSpan l).base + (s.stackSpan l).size := by simp only [State.stackSpan]; omega
  refine ⟨by omega, ?_, Span.outside_of_disjoint hprogram hlo hx,
    fun d hd => Span.outside_of_disjoint (hdata d hd) hlo hx⟩
  obtain hv | hv := Span.outside_of_disjoint hvector hlo hx
  · exact absurd hv (Nat.not_lt_zero x)
  · simpa [vectorArea] using hv

/-- The program loaded into the state after reset is held there (R263, log entry 22). -/
theorem load_starts {p : Params} {l : Layout} (he : isOdd p.resetPc = false)
    (ht : (p.resetPs &&& p.psMask).getLsbD 4 = false) (hfit : p.resetPc.toNat + 2 * l.program.length ≤ p.ramTop)
    (htop : p.ramTop ≤ 0o160000) (hs : (State.resetWith p).stackFits l = true) :
    ((State.resetWith p).load l).starts l = true := by
  have heq : (State.resetWith p).load l = { State.resetWith p with mem := ((State.resetWith p).load l).mem } :=
    State.storeBytes_eq _ _ _
  have hmem := State.storeBytes_holdsWords l.program (State.resetWith p) p.resetPc (by omega)
  rw [State.starts_iff, heq]
  exact ⟨he, hmem, (by decide : isOdd 0o1000#16 = false), hs, ht, rfl, rfl⟩

/-- A start state says nothing of a register but PC and SP. -/
theorem State.starts_setReg {s : State} {l : Layout} (h : s.starts l = true) {q : Reg} (v : Word) (h6 : q ≠ .r6)
    (h7 : q ≠ .r7) : (s.setReg q v).starts l = true := by
  have hpc : (s.setReg q v).pc = s.pc := (State.reg_setReg s q .r7 v).trans (if_neg h7.symm)
  have hsp : (s.setReg q v).sp = s.sp := (State.reg_setReg s q .r6 v).trans (if_neg h6.symm)
  rw [State.starts_iff, hpc, hsp, State.stackFits_congr l hpc hsp rfl]
  exact State.starts_iff.mp h

/-- A start state says nothing of a byte outside the program. -/
theorem State.starts_storeByte {s : State} {l : Layout} (h : s.starts l = true) {a : Word} (b : Byte)
    (ha : a.toNat < s.pc.toNat ∨ s.pc.toNat + 2 * l.program.length ≤ a.toNat) : (s.storeByte a b).starts l = true := by
  obtain ⟨hpc, hmem, hrest⟩ := State.starts_iff.mp h
  refine State.starts_iff.mpr ⟨hpc, Memory.holdsWords_congr (fun x hlo hhi => ?_) hmem, hrest⟩
  have hlo : s.pc.toNat ≤ x := hlo
  have hhi : x < s.pc.toNat + 2 * l.program.length := hhi
  rw [State.read_storeByte, if_neg (by omega)]

/-- Settles O8: loading stores the program's words, and changes nothing else a start state requires. -/
theorem resetStartState : Obligations.ResetStartState := by
  refine ⟨fun p => ⟨rfl, rfl, rfl, rfl, rfl, rfl⟩, by decide, by decide, by decide, by decide,
    fun p l he ht hfit htop hs => load_starts he ht hfit htop hs, fun s l h => ?_⟩
  obtain ⟨hpc, hmem, hsp, hfits, ht, hrun, hpending⟩ := State.starts_iff.mp h
  exact ⟨hpc, hsp, ht, hrun, hpending, fun n w hw => Memory.holdsWords_get hmem hw,
    fun x hlo hhi => State.stack_bytes hfits hlo hhi, fun q v h6 h7 => State.starts_setReg h v h6 h7,
    fun a b ha => State.starts_storeByte h b ha⟩

end Sys2Proof.Machine
end
